-- ==== Sys2Proof/Word.lean ====
section
/-! DEFINITION. The words of the block: registers, bytes, CSR addresses and bit strings
(spec/00_scope.md R14 to R17). -/

namespace Sys2Proof

/-- A 32-bit register value (R14). Every value is unsigned (R15). -/
abbrev Word := BitVec 32

/-- A byte of a stream, of a buffer, or a symbol (R9). -/
abbrev Byte := BitVec 8

/-- A byte address of the CSR space (R14, R30). -/
abbrev Addr := BitVec 16

/-- A bit string, leftmost bit first (R16). -/
abbrev Bits := List Bool

end Sys2Proof
end

