-- ==== Sys2Proof/Config.lean ====
section
/-! DEFINITION. What one instance of the block fixes (its synthesis parameters), and the free values:
opaque constants with no body, so that nothing in Lean can evaluate them. -/

namespace Sys2Proof

/-- The synthesis parameters of an instance (spec/00_scope.md R11, R13): OPEN in the spec, so they are
data that every statement quantifies over. DESIGN CHOICE (log 1): they stand in State, where no step
changes them. -/
structure Params where
  /-- MAX_CHUNK: the capacity of the chunk buffer in bytes (R11). -/
  maxChunk : Nat
  /-- IN_FIFO_DEPTH (R13). -/
  inDepth  : Nat
  /-- OUT_FIFO_DEPTH (R13). -/
  outDepth : Nat
  deriving DecidableEq, Repr

/-- PAYLOAD_BUF_BYTES = 4 × MAX_CHUNK (R12). -/
def Params.payloadBytes (p : Params) : Nat := 4 * p.maxChunk

/-- The instance whose reset state is `State.reset`. DESIGN CHOICE (log 1): the largest MAX_CHUNK that
R11 allows, and FIFOs deep enough that they hardly ever fill. -/
def Params.default : Params := { maxChunk := 134217727, inDepth := 2 ^ 30, outDepth := 2 ^ 30 }

/-- The two internal byte buffers (spec/20_memory.md R80). -/
inductive Buf where
  | chunk
  | payload
  deriving DecidableEq, Repr

/-- The answer of a CSR read of word address `a` whose value the spec leaves unspecified (spec/10_state.md R51 to
R54; spec/93_implementation_defined.md U1, U2, U4, U5), at count `n` of `State.free`. A free value (log 2, 9, 11,
12). -/
opaque Config.freeWord : (n a : Nat) → Word

/-- The choice among the running command's phases that a read of STATUS makes while BUSY = 1 (R53, U3), at count `n`
of `State.free`. A free value (log 10). -/
opaque Config.freePick : Nat → Nat

/-- What the byte `i` of buffer `b`, not written since the `epoch`-th reset, holds (R80, R350, U6).
A free value (log 3). -/
opaque Config.freeByte : (epoch : Nat) → (b : Buf) → (i : Nat) → Byte

end Sys2Proof
end

