-- ==== Sys2Proof/Syntax.lean ====
section
/-! DEFINITION. The command set HCMD version 1 (spec/30_encoding.md R111): one constructor per row of
spec/opcode_table.json. Commands have no operands (R114). -/

namespace Sys2Proof

inductive Instr where
  /-- NOP, spec/40_control.md R154. -/
  | nop
  /-- CLEAR, spec/40_control.md R156. -/
  | clear
  /-- ENC_LOAD, spec/41_encoder.md R160. -/
  | encLoad
  /-- TB_BUILD, spec/42_tree_builder.md R200. -/
  | tbBuild
  /-- CT_GEN, spec/41_encoder.md R170. -/
  | ctGen
  /-- ENC_EMIT_DICT, spec/41_encoder.md R175. -/
  | encEmitDict
  /-- BP_PACK, spec/43_bit_packer.md R220. -/
  | bpPack
  /-- ENC_CHUNK, spec/41_encoder.md R180. -/
  | encChunk
  /-- ENC_ALL, spec/41_encoder.md R182. -/
  | encAll
  /-- DEC_READ_COUNT, spec/44_decoder.md R240. -/
  | decReadCount
  /-- DEC_READ_ENTRIES, spec/44_decoder.md R243. -/
  | decReadEntries
  /-- DEC_READ_META, spec/44_decoder.md R246. -/
  | decReadMeta
  /-- BU_READ_PAYLOAD, spec/45_bitstream_unpacker.md R290. -/
  | buReadPayload
  /-- DEC_DECODE, spec/44_decoder.md R250. -/
  | decDecode
  /-- DEC_CHUNK, spec/44_decoder.md R258. -/
  | decChunk
  /-- DEC_ALL, spec/44_decoder.md R260. -/
  | decAll
  deriving DecidableEq, Repr

end Sys2Proof
end

