-- ==== Sys2Proof/WellFormed.lean ====
section
/-! DEFINITION. What makes a term of the syntax, and the parameters of an instance, well formed. -/

namespace Sys2Proof

/-- A command has no fields (spec/30_encoding.md R114), so every term of `Instr` is well formed. -/
def Instr.wellFormed : Instr → Bool := fun _ => true

/-- The parameters an instance may have: 1 ≤ MAX_CHUNK ≤ 2^27 − 1 (spec/00_scope.md R11) and both FIFO
depths at least 1 (R13). -/
def Params.wellFormed (p : Params) : Bool :=
  decide (1 ≤ p.maxChunk) && decide (p.maxChunk ≤ 134217727) && decide (1 ≤ p.inDepth) &&
    decide (1 ≤ p.outDepth)

end Sys2Proof
end

