-- ==== Sys2Proof/Decode.lean ====
section
/-! DEFINITION. Command words: the decoder (spec/30_encoding.md R110 to R112, R115), total on 32-bit words
and rejecting by name, and the encoder of R111's table. -/

namespace Sys2Proof

/-- Why a word is illegal (R112). -/
inductive Reject where
  /-- bits 31:8 are not all 0 -/
  | reservedBits
  /-- OPCODE is not in the table of R111 -/
  | reservedOpcode (op : Byte)
  deriving DecidableEq, Repr

/-- OPCODE, bits 7:0 of a word (R110). -/
def opcodeOf (w : Word) : Byte := w.extractLsb' 0 8

/-- The reserved field, bits 31:8 (R110). -/
def reservedOf (w : Word) : BitVec 24 := w.extractLsb' 8 24

/-- The rows of R111: the opcode of each command. -/
def opcodeRows : List (Byte × Instr) :=
  [(0x00#8, .nop), (0x01#8, .clear),
   (0x10#8, .encLoad), (0x11#8, .tbBuild), (0x12#8, .ctGen), (0x13#8, .encEmitDict), (0x14#8, .bpPack),
   (0x18#8, .encChunk), (0x19#8, .encAll),
   (0x20#8, .decReadCount), (0x21#8, .decReadEntries), (0x22#8, .decReadMeta), (0x23#8, .buReadPayload),
   (0x24#8, .decDecode),
   (0x28#8, .decChunk), (0x29#8, .decAll)]

/-- The row of an opcode, if the table has one. -/
def lookupOpcode (op : Byte) : List (Byte × Instr) → Option Instr
  | [] => none
  | (o, i) :: rows => if o = op then some i else lookupOpcode op rows

/-- The decoder of command words, total: one of the 16 words of R111, or illegal (R112). -/
def decode (w : Word) : Except Reject Instr :=
  if reservedOf w = 0#24 then
    match lookupOpcode (opcodeOf w) opcodeRows with
    | some i => .ok i
    | none => .error (.reservedOpcode (opcodeOf w))
  else .error .reservedBits

/-- The decoder on an instruction of the opcode table, its bits numbered as the table numbers them. A
command word is one 32-bit word (R115), so the bits above the word's end must be 0. -/
def decodeTableWord (nbits w : Nat) : Option Instr :=
  if w % 2 ^ nbits < 2 ^ 32 then
    match decode (BitVec.ofNat 32 (w % 2 ^ nbits)) with
    | .ok i => some i
    | .error _ => none
  else none

/-- The word of a command (R111, column "word"). -/
def encode : Instr → Word
  | .nop            => 0x00000000#32
  | .clear          => 0x00000001#32
  | .encLoad        => 0x00000010#32
  | .tbBuild        => 0x00000011#32
  | .ctGen          => 0x00000012#32
  | .encEmitDict    => 0x00000013#32
  | .bpPack         => 0x00000014#32
  | .encChunk       => 0x00000018#32
  | .encAll         => 0x00000019#32
  | .decReadCount   => 0x00000020#32
  | .decReadEntries => 0x00000021#32
  | .decReadMeta    => 0x00000022#32
  | .buReadPayload  => 0x00000023#32
  | .decDecode      => 0x00000024#32
  | .decChunk       => 0x00000028#32
  | .decAll         => 0x00000029#32

/-! Each command's word, written out in bits from spec/opcode_table.json ("encoding"), decodes to it. -/

theorem decode_nop : decode 0b00000000000000000000000000000000#32 = .ok .nop := rfl
theorem decode_clear : decode 0b00000000000000000000000000000001#32 = .ok .clear := rfl
theorem decode_encLoad : decode 0b00000000000000000000000000010000#32 = .ok .encLoad := rfl
theorem decode_tbBuild : decode 0b00000000000000000000000000010001#32 = .ok .tbBuild := rfl
theorem decode_ctGen : decode 0b00000000000000000000000000010010#32 = .ok .ctGen := rfl
theorem decode_encEmitDict : decode 0b00000000000000000000000000010011#32 = .ok .encEmitDict := rfl
theorem decode_bpPack : decode 0b00000000000000000000000000010100#32 = .ok .bpPack := rfl
theorem decode_encChunk : decode 0b00000000000000000000000000011000#32 = .ok .encChunk := rfl
theorem decode_encAll : decode 0b00000000000000000000000000011001#32 = .ok .encAll := rfl
theorem decode_decReadCount : decode 0b00000000000000000000000000100000#32 = .ok .decReadCount := rfl
theorem decode_decReadEntries : decode 0b00000000000000000000000000100001#32 = .ok .decReadEntries := rfl
theorem decode_decReadMeta : decode 0b00000000000000000000000000100010#32 = .ok .decReadMeta := rfl
theorem decode_buReadPayload : decode 0b00000000000000000000000000100011#32 = .ok .buReadPayload := rfl
theorem decode_decDecode : decode 0b00000000000000000000000000100100#32 = .ok .decDecode := rfl
theorem decode_decChunk : decode 0b00000000000000000000000000101000#32 = .ok .decChunk := rfl
theorem decode_decAll : decode 0b00000000000000000000000000101001#32 = .ok .decAll := rfl

end Sys2Proof
end

