-- ==== Sys2Proof/Machine/State.lean ====
section
/-! DEFINITION. The state of the block (spec/10_state.md R33), as plain data, and the state after reset
(spec/70_reset_and_hazards.md R350). -/

namespace Sys2Proof.Machine

/-- STATUS.PHASE (R36). The reserved values 0x9 to 0xE are never taken (U17), so the type has none. -/
inductive Phase where
  /-- 0x0: between chunks; the source's state ReadDictCount -/
  | idle
  /-- 0x1 E_LOADED -/
  | eLoaded
  /-- 0x2 E_TREE -/
  | eTree
  /-- 0x3 E_CODES -/
  | eCodes
  /-- 0x4 E_DICT -/
  | eDict
  /-- 0x5 D_ENTRIES -/
  | dEntries
  /-- 0x6 D_META -/
  | dMeta
  /-- 0x7 D_PAYLOAD -/
  | dPayload
  /-- 0x8 D_DECODE -/
  | dDecode
  /-- 0xF ERROR -/
  | error
  deriving DecidableEq, Repr

/-- The error causes (spec/60_exceptions.md R300). An error is no fault of the model: it is the error
entry of R310, a next state. -/
inductive ErrCode where
  | illegalCmd | sequence | codeTooLong | truncated | dupCodeword | bitlenExceeds | unmatchedBits
  | badCodeLen | dictTooLarge | payloadTooLarge | outputTooLarge
  deriving DecidableEq, Repr

/-- A table of 256 entries (R51, R52, R54). -/
abbrev Table (α : Type) := Vector α 256

/-- A byte buffer (spec/20_memory.md R80): (index, byte) pairs, indexes strictly rising. An index that
is not listed has not been written since reset (log 3). -/
abbrev Memory := List Host.Cell

/-- A node of the Huffman tree (R58). `single` is R201's synthesized root, an Internal node whose right
child is None. -/
inductive Tree where
  | leaf (sym : Byte) (freq key : Nat)
  | single (child : Tree) (freq key : Nat)
  | node (left right : Tree) (freq key : Nat)
  deriving DecidableEq, Repr

/-- The decoder candidate (R59): `cl` bits of value `cv`. -/
structure Cand where
  cl : Nat
  cv : Nat
  deriving DecidableEq, Repr

/-- The InPop a command waits on, with the local variables of its pseudocode there. -/
inductive PopSite where
  /-- ENC_LOAD's InPop for byte k of a chunk of at most cs bytes (spec/41_encoder.md R160) -/
  | load (cs k : Nat)
  /-- DEC_READ_COUNT, `got` the bytes of the count read so far (spec/44_decoder.md R240) -/
  | count (got : List Byte)
  /-- DEC_READ_ENTRIES, entry i, `got` its bytes read so far (R243) -/
  | entry (i : Nat) (got : List Byte)
  /-- DEC_READ_META, in payload_bit_len (R246) -/
  | bitLen (got : List Byte)
  /-- DEC_READ_META, in payload_byte_len (R246) -/
  | byteLen (got : List Byte)
  /-- BU_READ_PAYLOAD's InPop for byte t (spec/45_bitstream_unpacker.md R290) -/
  | payload (t : Nat)
  deriving DecidableEq, Repr

/-- The commands that push bytes. -/
inductive PushSite where
  /-- ENC_EMIT_DICT (spec/41_encoder.md R175) -/
  | dict
  /-- BP_PACK (spec/43_bit_packer.md R220) -/
  | pack
  /-- DEC_DECODE (spec/44_decoder.md R250) -/
  | decoded
  deriving DecidableEq, Repr

/-- The position of the running command in its pseudocode (R33). An engine step ends with a stream
operation (spec/40_control.md R153), so a position is the start, or the point just after an InPop with
what it returned (`none` is EOF), or the point just after an OutPush with the bytes still to be pushed. -/
inductive Point where
  | start
  | popped (site : PopSite) (b : Option Byte)
  | pushed (site : PushSite) (rest : List Byte)
  deriving DecidableEq, Repr

/-- The running command: the accepted word (R150; its opcode goes into ERR_INFO, R310) and its position. -/
structure Run where
  word  : Word
  point : Point
  deriving DecidableEq, Repr

/-- A host action (spec/30_encoding.md R117, spec/60_exceptions.md R336), or a turn the host leaves to
the engine (R153: host actions and engine steps interleave in any order; log 4). -/
inductive Move where
  /-- one 32-bit read of the CSR at an address -/
  | csrRead (a : Addr)
  /-- one 32-bit write -/
  | csrWrite (a : Addr) (v : Word)
  /-- one `s_in` transfer (spec/20_memory.md R87) -/
  | send (b : Byte) (last : Bool)
  /-- one read on `m_out` (R88) -/
  | recv
  /-- read STATUS until BUSY reads 0 (R117) -/
  | waitIdle
  /-- wait until the interrupt line is 1 (programs P1 and P5 of spec/95_test_vectors.md; R360) -/
  | waitIrq
  /-- the engine's turn -/
  | engine
  /-- a write of IRQ_STATUS and an engine step that fall on the same step (R41, R315) -/
  | ackSameStep (v : Word)
  /-- assert `rst_n` (spec/70_reset_and_hazards.md R350) -/
  | rstAssert
  /-- release `rst_n` -/
  | rstRelease
  deriving DecidableEq, Repr

/-- What a port has answered the host. -/
inductive Reply where
  /-- the value a CSR read returned -/
  | csr (a : Addr) (v : Word)
  /-- the byte an `m_out` read took -/
  | byte (b : Byte)
  deriving DecidableEq, Repr

/-- Why the machine stops. -/
inductive Fault where
  /-- An access to an index the buffer does not have, raised by `memRead` and `memWrite`. Safe: R80 says
  every index the rules use is below the buffer size, so only states no run reaches raise it (log 16). -/
  | bufferIndex (b : Buf) (i : Nat)
  deriving DecidableEq, Repr

/-- Why an instruction is refused. -/
inductive Refusal where
  /-- Raised by `exec` for an instruction that has no meaning yet. Safe. No arm raises it. -/
  | notModelled (mnemonic : String)
  deriving DecidableEq, Repr

/-- The state of R33, with the instance's parameters and the model's own fields. -/
structure State where
  /-- MAX_CHUNK and the FIFO depths; no step changes them (R11, R13, R46; log 1) -/
  cfg        : Params
  /-- CHUNK_SIZE (R39) -/
  chunkSize  : Word
  /-- IRQ_EN: DONE_EN bit 0, ERR_EN bit 1 (R40) -/
  irqEn      : BitVec 2
  /-- IRQ_STATUS: DONE bit 0, ERR bit 1 (R41) -/
  irqStatus  : BitVec 2
  /-- ERR_CODE bits 7:0 (R42) -/
  errCode    : BitVec 8
  /-- ERR_INFO bits 11:0: PHASE, OPCODE (R43) -/
  errInfo    : BitVec 12
  /-- CHUNK_COUNT (R44) -/
  chunkCount : Word
  /-- IN_COUNT (R45) -/
  inCount    : Word
  /-- OUT_COUNT (R45) -/
  outCount   : Word
  /-- CUR_LEN (R47) -/
  curLen     : Word
  /-- DICT_COUNT (R48) -/
  dictCount  : Word
  /-- BIT_LEN (R49) -/
  bitLen     : Word
  /-- BYTE_LEN (R50) -/
  byteLen    : Word
  /-- the running command; STATUS.BUSY is 1 exactly when there is one (R33, R35; log 19) -/
  run        : Option Run
  /-- STATUS.END (R35) -/
  endFlag    : Bool
  /-- STATUS.IN_CLOSED (R35) -/
  inClosed   : Bool
  /-- STATUS.CMD_DROP (R35) -/
  cmdDrop    : Bool
  /-- STATUS.PHASE (R36) -/
  phase      : Phase
  /-- FREQ (R51) -/
  freq       : Table Word
  /-- CODE_VAL (R52) -/
  codeVal    : Table Word
  /-- CODE_LEN bits 5:0 (R52) -/
  codeLen    : Table (BitVec 6)
  /-- DICT_SYM (R54) -/
  dictSym    : Table Byte
  /-- DICT_LEN (R54) -/
  dictLen    : Table (BitVec 6)
  /-- DICT_VAL (R54) -/
  dictVal    : Table Word
  /-- MODEL: FREQ holds specified values (R51, U1; log 2) -/
  freqSpec   : Bool
  /-- MODEL: CODE_VAL and CODE_LEN hold specified values (R52, U1, U5; log 2, 12) -/
  codeSpec   : Bool
  /-- MODEL: how many leading dictionary entries have been written since reset (R54, U1; log 2) -/
  dictSpec   : Nat
  /-- CHUNK_BUF (R80) -/
  chunkBuf   : Memory
  /-- PAYLOAD_BUF (R80) -/
  payloadBuf : Memory
  /-- the input FIFO, head first (R83) -/
  inFifo     : List Byte
  /-- the output FIFO, head first (R83) -/
  outFifo    : List Byte
  /-- the Huffman tree (R57, R58) -/
  tree       : Option Tree
  /-- the priority queue (R57) -/
  queue      : List Tree
  /-- the decoder candidate (R59) -/
  cand       : Option Cand
  /-- `rst_n` is asserted (R350) -/
  inReset    : Bool
  /-- MODEL: the number of resets, the argument of the free contents of unwritten bytes (log 3) -/
  epoch      : Nat
  /-- MODEL: the counter of free values (log 9) -/
  free       : Nat
  /-- MODEL: what the host still has to do (log 4) -/
  host       : List Move
  /-- MODEL: what the ports have answered, oldest first (log 15) -/
  replies    : List Reply
  deriving DecidableEq, Repr

/-- The block right after reset, for an instance with parameters `c` (R350). The tables are unspecified
there: 0 is stored and the marks `freqSpec`, `codeSpec`, `dictSpec` make every host read of them a free
value (DESIGN CHOICE, log 2); the buffers list nothing (log 3). -/
def State.resetOf (c : Params) : State :=
  { cfg := c
    chunkSize := BitVec.ofNat 32 c.maxChunk
    irqEn := 0#2, irqStatus := 0#2, errCode := 0#8, errInfo := 0#12
    chunkCount := 0#32, inCount := 0#32, outCount := 0#32
    curLen := 0#32, dictCount := 0#32, bitLen := 0#32, byteLen := 0#32
    run := none, endFlag := false, inClosed := false, cmdDrop := false, phase := .idle
    freq := Vector.replicate 256 0#32
    codeVal := Vector.replicate 256 0#32, codeLen := Vector.replicate 256 0#6
    dictSym := Vector.replicate 256 0#8, dictLen := Vector.replicate 256 0#6
    dictVal := Vector.replicate 256 0#32
    freqSpec := false, codeSpec := false, dictSpec := 0
    chunkBuf := [], payloadBuf := [], inFifo := [], outFifo := []
    tree := none, queue := [], cand := none
    inReset := false, epoch := 0, free := 0, host := [], replies := [] }

/-- The block right after reset. -/
def State.reset : State := State.resetOf Params.default

end Sys2Proof.Machine
end

