-- ==== Sys2Proof/Machine/Operands.lean ====
section
/-! DEFINITION. What commands compute with: tables, bit strings and their conversions
(spec/00_scope.md R16, R17), the opcode of the running command, and the phases a command may run in
(spec/30_encoding.md R113). -/

namespace Sys2Proof.Machine

/-! ### Tables -/

/-- Entry `i` of a table. Every index the rules use is below 256 (log 17). -/
def Table.entry {n : Nat} (t : Table (BitVec n)) (i : Nat) : BitVec n :=
  if h : i < 256 then t[i] else 0#n

/-- The table with entry `i` set to `v`. -/
def Table.put {n : Nat} (t : Table (BitVec n)) (i : Nat) (v : BitVec n) : Table (BitVec n) :=
  t.setIfInBounds i v

/-- The table whose every entry is 0. -/
def Table.zero (n : Nat) : Table (BitVec n) := Vector.replicate 256 0#n

/-! ### Bit strings and numbers (R16, R17) -/

/-- val(s): the leftmost bit is the most significant (R17). -/
def bitsVal (s : Bits) : Nat := s.foldl (fun acc b => 2 * acc + b.toNat) 0

/-- str_L(v): the L-bit string of value v, leftmost bit first (R17). Bit j of v stands for the j-th
codeword bit from the right (R122). -/
def bitsOf (L : Nat) (v : Word) : Bits := (List.range L).reverse.map v.getLsbD

/-- mask(L) = 2^L − 1 (R17). -/
def lowMask (L : Nat) : Word := BitVec.ofNat 32 (2 ^ L - 1)

/-- be32(v): most significant byte first (R17, spec/20_memory.md R89). -/
def be32 (v : Word) : List Byte :=
  [v.extractLsb' 24 8, v.extractLsb' 16 8, v.extractLsb' 8 8, v.extractLsb' 0 8]

/-- from_be32(b0, b1, b2, b3) (R17). -/
def fromBe32 (b0 b1 b2 b3 : Byte) : Word := b0 ++ b1 ++ b2 ++ b3

/-- ceil8(n) = (n + 7) div 8, exact (R17). -/
def ceil8 (n : Nat) : Nat := (n + 7) / 8

/-- The bit at position `j` of a packed byte sequence lies in its byte j div 8; this is that bit of the
byte: bit 7 − (j mod 8) (spec/30_encoding.md R123, spec/20_memory.md R90). -/
def byteBit (b : Byte) (j : Nat) : Bool := b.getLsbD (7 - j % 8)

/-! ### The frequency table -/

/-- The symbols of the chunk, ascending: `[ s in 0..255 : FREQ[s] > 0 ]` (R19, R160, R200). -/
def present (freq : Table Word) : List Nat := ((freq.toList.zipIdx).filter (fun e => e.1 ≠ 0#32)).map Prod.snd

/-! ### The running command -/

/-- STATUS.BUSY (R35). -/
def State.busy (s : State) : Bool := s.run.isSome

/-- The position of the running command. -/
def State.point (s : State) : Point :=
  match s.run with
  | some r => r.point
  | none => .start

/-- The word of the running command. -/
def State.word (s : State) : Word :=
  match s.run with
  | some r => r.word
  | none => encode .nop

/-- The command word the engine runs next, decoded: `none` when no command runs. The block fetches no
instructions (spec/20_memory.md R101); the word was taken when it was written to CMD. -/
def State.fetch (s : State) : Option (Except Reject Instr) := s.run.map (fun r => decode r.word)

/-- R113, column "allowed phase". -/
def allowedIn (i : Instr) (p : Phase) : Bool :=
  match i with
  | .nop            => true
  | .clear          => true
  | .encLoad        => p = .idle
  | .tbBuild        => p = .eLoaded
  | .ctGen          => p = .eTree
  | .encEmitDict    => p = .eCodes
  | .bpPack         => p = .eDict
  | .encChunk       => p = .idle
  | .encAll         => p = .idle
  | .decReadCount   => p = .idle
  | .decReadEntries => p = .dEntries
  | .decReadMeta    => p = .dMeta
  | .buReadPayload  => p = .dPayload
  | .decDecode      => p = .dDecode
  | .decChunk       => p = .idle
  | .decAll         => p = .idle

/-- The phases a command passes through once it runs (R113, columns "allowed phase" and "next phase";
the composites, R151); empty for NOP, which leaves the phase alone. -/
def phasesOf : Instr → List Phase
  | .nop            => []
  | .clear          => [.idle]
  | .encLoad        => [.idle, .eLoaded]
  | .tbBuild        => [.eLoaded, .eTree]
  | .ctGen          => [.eTree, .eCodes]
  | .encEmitDict    => [.eCodes, .eDict]
  | .bpPack         => [.eDict, .idle]
  | .encChunk       => [.idle, .eLoaded, .eTree, .eCodes, .eDict]
  | .encAll         => [.idle, .eLoaded, .eTree, .eCodes, .eDict]
  | .decReadCount   => [.idle, .dEntries]
  | .decReadEntries => [.dEntries, .dMeta]
  | .decReadMeta    => [.dMeta, .dPayload]
  | .buReadPayload  => [.dPayload, .dDecode]
  | .decDecode      => [.dDecode, .idle]
  | .decChunk       => [.idle, .dEntries, .dMeta, .dPayload, .dDecode]
  | .decAll         => [.idle, .dEntries, .dMeta, .dPayload, .dDecode]

end Sys2Proof.Machine
end

