-- ==== Sys2Proof/Machine/Flags.lean ====
section
/-! DEFINITION. Codes and flags: the values of STATUS.PHASE and ERR_CODE, the STATUS word, the interrupt
line (spec/10_state.md R35, R36, R41 to R43; spec/60_exceptions.md R300, R320). -/

namespace Sys2Proof.Machine

/-- The value of STATUS.PHASE (R36). -/
def Phase.code : Phase → BitVec 4
  | .idle     => 0x0#4
  | .eLoaded  => 0x1#4
  | .eTree    => 0x2#4
  | .eCodes   => 0x3#4
  | .eDict    => 0x4#4
  | .dEntries => 0x5#4
  | .dMeta    => 0x6#4
  | .dPayload => 0x7#4
  | .dDecode  => 0x8#4
  | .error    => 0xF#4

/-- The value of ERR_CODE for each error (R300). -/
def ErrCode.code : ErrCode → BitVec 8
  | .illegalCmd      => 0x01#8
  | .sequence        => 0x02#8
  | .codeTooLong     => 0x03#8
  | .truncated       => 0x04#8
  | .dupCodeword     => 0x05#8
  | .bitlenExceeds   => 0x06#8
  | .unmatchedBits   => 0x07#8
  | .badCodeLen      => 0x08#8
  | .dictTooLarge    => 0x09#8
  | .payloadTooLarge => 0x0A#8
  | .outputTooLarge  => 0x0B#8

/-- ERR_INFO: PHASE in bits 11:8, OPCODE in bits 7:0 (R43). -/
def errInfoOf (p : Phase) (op : Byte) : BitVec 12 := p.code ++ op

/-- STATUS with `p` in its PHASE field (R35); the fields other than PHASE are exact at every step (R53). -/
def statusWord (p : Phase) (s : State) : Word :=
  0#20 ++ p.code ++ 0#1 ++ BitVec.ofBool s.cmdDrop ++ BitVec.ofBool s.outFifo.isEmpty ++
    BitVec.ofBool s.inFifo.isEmpty ++ BitVec.ofBool s.inClosed ++ BitVec.ofBool s.endFlag ++
    BitVec.ofBool (s.phase = .error) ++ BitVec.ofBool s.busy

/-- IRQ_STATUS with DONE set (R41, R152). -/
def setDone (irq : BitVec 2) : BitVec 2 := irq ||| 0b01#2

/-- IRQ_STATUS with ERR set (R41, R310). -/
def setErr (irq : BitVec 2) : BitVec 2 := irq ||| 0b10#2

/-- IRQ_STATUS with ERR cleared (R156). -/
def clearErr (irq : BitVec 2) : BitVec 2 := irq &&& 0b01#2

/-- IRQ_STATUS after a write of `v`: writing 1 to a bit clears it, writing 0 leaves it (R41). -/
def ackIrq (irq : BitVec 2) (v : Word) : BitVec 2 := irq &&& ~~~(v.setWidth 2)

/-- The interrupt line (R320):
`irq = (IRQ_STATUS.DONE and IRQ_EN.DONE_EN) or (IRQ_STATUS.ERR and IRQ_EN.ERR_EN)`. -/
def State.irq (s : State) : Bool :=
  (s.irqStatus.getLsbD 0 && s.irqEn.getLsbD 0) || (s.irqStatus.getLsbD 1 && s.irqEn.getLsbD 1)

end Sys2Proof.Machine
end

