-- ==== Sys2Proof/Machine/Ops.lean ====
section
/-! DEFINITION. The shared operations: the buffers, the streams, completion, the error entry, and one
engine step (spec/20_memory.md, spec/40_control.md, spec/60_exceptions.md). -/

namespace Sys2Proof.Machine

/-! ### The internal buffers (R80) -/

/-- Indexes strictly rising: the canonical form of a buffer. An unlisted index has no value of its own. -/
def Memory.wf : Memory → Bool
  | [] => true
  | [_] => true
  | c :: d :: m => decide (c.1 < d.1) && Memory.wf (d :: m)

/-- The byte listed at an index. -/
def Memory.lookup : Memory → Nat → Option Byte
  | [], _ => none
  | (a, v) :: m, i => if a = i then some v else Memory.lookup m i

/-- The buffer with `v` at index `i`, in canonical form. -/
def Memory.insert : Memory → Nat → Byte → Memory
  | [], i, v => [(i, v)]
  | (a, w) :: m, i, v =>
    if i < a then (i, v) :: (a, w) :: m
    else if i = a then (i, v) :: m
    else (a, w) :: Memory.insert m i v

/-- The size of a buffer in bytes: MAX_CHUNK and PAYLOAD_BUF_BYTES (R80, R12). -/
def bufSize (p : Params) : Buf → Nat
  | .chunk => p.maxChunk
  | .payload => p.payloadBytes

/-- The contents of a buffer. -/
def State.buf (s : State) : Buf → Memory
  | .chunk => s.chunkBuf
  | .payload => s.payloadBuf

/-- What index `i` of a buffer holds: the byte written there, or a free value (R80, U6; log 3). -/
def State.bufByte (s : State) (b : Buf) (i : Nat) : Byte :=
  match (s.buf b).lookup i with
  | some v => v
  | none => Config.freeByte s.epoch b i

/-- The state with another contents for a buffer. -/
def State.setBuf (s : State) (b : Buf) (m : Memory) : State :=
  match b with
  | .chunk => { s with chunkBuf := m }
  | .payload => { s with payloadBuf := m }

/-- MemRead(buf, i, 1) (R18). An index the buffer does not have faults (log 16). -/
def memRead (b : Buf) (i : Nat) (s : State) : Except Fault Byte :=
  if i < bufSize s.cfg b then .ok (s.bufByte b i) else .error (.bufferIndex b i)

/-- MemWrite(buf, i, 1, v) (R18). An index the buffer does not have faults (log 16). -/
def memWrite (b : Buf) (i : Nat) (v : Byte) (s : State) : Except Fault State :=
  if i < bufSize s.cfg b then .ok (s.setBuf b ((s.buf b).insert i v)) else .error (.bufferIndex b i)

/-- The `n` bytes of a buffer from index `i` on, read one by one. -/
def memReadList (b : Buf) (s : State) : (n i : Nat) → Except Fault (List Byte)
  | 0, _ => .ok []
  | n + 1, i =>
    match memRead b i s with
    | .error f => .error f
    | .ok v =>
      match memReadList b s n (i + 1) with
      | .error f => .error f
      | .ok vs => .ok (v :: vs)

/-! ### The streams as the engine uses them -/

/-- InPop() (R84): `none` is a hold, `some (none, s)` is EOF, with no state change. -/
def inPop (s : State) : Option (Option Byte × State) :=
  match s.inFifo with
  | b :: rest => some (some b, { s with inFifo := rest, inCount := s.inCount + 1 })
  | [] => if s.inClosed then some (none, s) else none

/-- OutPush(b) (R85): `none` is a hold. -/
def outPush (b : Byte) (s : State) : Option State :=
  if s.outFifo.length < s.cfg.outDepth then
    some { s with outFifo := s.outFifo ++ [b], outCount := s.outCount + 1 }
  else none

/-! ### The end of a command -/

/-- Complete() (R152): BUSY ← 0 and IRQ_STATUS.DONE ← 1, in one step with the last assignments of the
Body. -/
def State.complete (s : State) : State := { s with run := none, irqStatus := setDone s.irqStatus }

/-- Error entry (R310): ERR_CODE and ERR_INFO are recorded, PHASE ← ERROR, BUSY ← 0, IRQ_STATUS.ERR ← 1, the
command ends, the tree is discarded; nothing the command did before is undone. ERR_INFO.PHASE is the
phase at the moment of the error and ERR_INFO.OPCODE the opcode of the accepted word (R43). -/
def State.raiseError (c : ErrCode) (s : State) : State :=
  { s with
    errCode := c.code
    errInfo := errInfoOf s.phase (opcodeOf s.word)
    phase := .error
    run := none
    irqStatus := setErr s.irqStatus
    tree := none, queue := [], cand := none }

/-! ### One engine step (R153) -/

/-- Where the engine's computation from one stream operation to the next arrives. -/
inductive Request where
  /-- an InPop -/
  | pop (s : State) (site : PopSite)
  /-- OutPush(b), with the bytes `rest` to be pushed after it -/
  | push (s : State) (site : PushSite) (b : Byte) (rest : List Byte)
  /-- the end of the Body -/
  | done (s : State)
  /-- raise Error(c) -/
  | error (s : State) (c : ErrCode)
  /-- a buffer access that cannot be made (log 16) -/
  | fault (f : Fault)
  deriving DecidableEq, Repr

/-- Go on with `k` where a Body ends: how composites call their parts in line (R151). An error in a part
ends the composite at once. -/
def Request.andThen (r : Request) (k : State → Request) : Request :=
  match r with
  | .pop s site => .pop s site
  | .push s site b rest => .push s site b rest
  | .done s => k s
  | .error s c => .error s c
  | .fault f => .fault f

/-- Push the bytes `bs` in order, then go on with `fin`. The bytes a command pushes depend on nothing that
can change while it runs, so they are found once, when it starts to push (log 6). -/
def emit (site : PushSite) (bs : List Byte) (fin : State → Request) (s : State) : Request :=
  match bs with
  | [] => fin s
  | b :: rest => .push s site b rest

/-- The state with the running command at another position. -/
def State.goto (p : Point) (s : State) : State :=
  { s with run := s.run.map (fun r => { r with point := p }) }

/-- The stream operation, completion or error entry that ends an engine step that began in `s0`. A hold is
the absence of an engine step (R86, R153): the state is `s0` again. -/
def finishStep (s0 : State) (r : Request) : Host.Outcome State Fault Refusal :=
  match r with
  | .pop s site =>
    match inPop s with
    | some (b, s') => .next (s'.goto (.popped site b))
    | none => .next s0
  | .push s site b rest =>
    match outPush b s with
    | some s' => .next (s'.goto (.pushed site rest))
    | none => .next s0
  | .done s => .next s.complete
  | .error s c => .next (s.raiseError c)
  | .fault f => .fault f

/-- The block with command `i` accepted: a block that already runs a command stays as it is (log 20). -/
def State.accept (i : Instr) (s : State) : State :=
  match s.run with
  | some _ => s
  | none => { s with run := some { word := encode i, point := .start } }

end Sys2Proof.Machine
end

