-- ==== Sys2Proof/Machine/BitPacker.lean ====
section
/-! DEFINITION. The bit_packer sub-unit (spec/43_bit_packer.md): the Body of BP_PACK. -/

namespace Sys2Proof.Machine

/-- The pending bits of R220 (`acc`, and their number `na`, 0..7) and the bytes pushed so far. -/
structure Packer where
  acc : Nat
  na  : Nat
  out : List Byte
  deriving DecidableEq, Repr

/-- One turn of R220's inner loop: a codeword bit is appended; eight pending bits are pushed as a byte. -/
def packBit (p : Packer) (bit : Bool) : Packer :=
  if p.na + 1 = 8 then
    { acc := 0, na := 0, out := p.out ++ [BitVec.ofNat 8 (2 * p.acc + bit.toNat)] }
  else { p with acc := 2 * p.acc + bit.toNat, na := p.na + 1 }

/-- The codeword of a symbol, bits L−1 down to 0 of CODE_VAL (R220, R122). -/
def codewordOf (codeLen : Table (BitVec 6)) (codeVal : Table Word) (sym : Byte) : Bits :=
  bitsOf (codeLen.entry sym.toNat).toNat (codeVal.entry sym.toNat)

/-- R220's loop over the chunk's bytes. -/
def packSymbols (codeLen : Table (BitVec 6)) (codeVal : Table Word) (chunk : List Byte) : Packer :=
  chunk.foldl (fun p sym => (codewordOf codeLen codeVal sym).foldl packBit p)
    { acc := 0, na := 0, out := [] }

/-- The payload bytes: what the loop pushed and, where bits are pending, a last byte padded with 0 bits at
the low end (R220, R123). -/
def packPayload (codeLen : Table (BitVec 6)) (codeVal : Table Word) (chunk : List Byte) : List Byte :=
  let p := packSymbols codeLen codeVal chunk
  if p.na > 0 then p.out ++ [BitVec.ofNat 8 (p.acc * 2 ^ (8 - p.na))] else p.out

/-- The end of Body(BP_PACK). -/
def packFinish (s : State) : Request :=
  .done { s with chunkCount := s.chunkCount + 1, phase := .idle }

/-- Body(BP_PACK) up to its first OutPush (R220). -/
def packStart (s : State) : Request :=
  match memReadList .chunk s s.curLen.toNat 0 with
  | .error f => .fault f
  | .ok chunk =>
    emit .pack (be32 s.bitLen ++ be32 s.byteLen ++ packPayload s.codeLen s.codeVal chunk) packFinish s

end Sys2Proof.Machine
end

