-- ==== Sys2Proof/Machine/Unpacker.lean ====
section
/-! DEFINITION. The bitstream_unpacker sub-unit (spec/45_bitstream_unpacker.md): the Body of
BU_READ_PAYLOAD, and the bit string view of the payload. -/

namespace Sys2Proof.Machine

/-- The head of R290's loop `for t in 0 .. mb − 1`. -/
def payloadLoop (t : Nat) (s : State) : Request :=
  if t < s.byteLen.toNat then .pop s (.payload t) else .done { s with phase := .dDecode }

/-- Body(BU_READ_PAYLOAD) up to its first InPop (R290). -/
def payloadStart (s : State) : Request := payloadLoop 0 s

/-- Body(BU_READ_PAYLOAD) after the InPop for byte `t`. -/
def payloadGot (t : Nat) (b : Option Byte) (s : State) : Request :=
  match b with
  | none => .error s .truncated
  | some b =>
    match memWrite .payload t b s with
    | .error f => .fault f
    | .ok s => payloadLoop (t + 1) s

/-- PayloadBit(j) (R291). -/
def payloadBit (j : Nat) (s : State) : Except Fault Bool :=
  match memRead .payload (j / 8) s with
  | .error f => .error f
  | .ok b => .ok (byteBit b j)

end Sys2Proof.Machine
end

