-- ==== Sys2Proof/Machine/Decoder.lean ====
section
/-! DEFINITION. The huffman_decoder sub-unit (spec/44_decoder.md): the Bodies of DEC_READ_COUNT,
DEC_READ_ENTRIES, DEC_READ_META and DEC_DECODE. -/

namespace Sys2Proof.Machine

/-! ### ReadDictCount (R240) -/

/-- Body(DEC_READ_COUNT) up to its first InPop. -/
def readCountStart (s : State) : Request :=
  .pop { s with curLen := 0#32, bitLen := 0#32, byteLen := 0#32 } (.count [])

/-- The count is read. -/
def readCountCheck (n : Word) (s : State) : Request :=
  let s := { s with dictCount := n }
  if 256 < n.toNat then .error s .dictTooLarge else .done { s with phase := .dEntries }

/-- Body(DEC_READ_COUNT) after an InPop, `got` the bytes before it. EOF at the first byte is the end of the
container; EOF after 1 to 3 bytes is TRUNCATED (R240, R241). -/
def readCountGot (got : List Byte) (b : Option Byte) (s : State) : Request :=
  match b with
  | none =>
    match got with
    | [] => .done { s with endFlag := true }
    | _ :: _ => .error s .truncated
  | some b =>
    match got ++ [b] with
    | b0 :: b1 :: b2 :: b3 :: _ => readCountCheck (fromBe32 b0 b1 b2 b3) s
    | g => .pop s (.count g)

/-! ### ReadDictEntries (R243) -/

/-- The head of R243's loop `for i in 0..n−1`. -/
def entriesLoop (i : Nat) (s : State) : Request :=
  if i < s.dictCount.toNat then .pop s (.entry i []) else .done { s with phase := .dMeta }

/-- Body(DEC_READ_ENTRIES) up to its first InPop. -/
def readEntriesStart (s : State) : Request := entriesLoop 0 s

/-- An entry `j < i` has codeword length L and masked value cw (R244). -/
def dupEntry (i L : Nat) (cw : Word) (s : State) : Bool :=
  (List.range i).any fun j =>
    decide ((Table.entry s.dictLen j).toNat = L) && decide (Table.entry s.dictVal j = cw)

/-- Entry `i` written. -/
def writeEntry (i : Nat) (sym L : Byte) (cw : Word) (s : State) : State :=
  { s with dictSym := Table.put s.dictSym i sym
           dictLen := Table.put s.dictLen i (L.setWidth 6)
           dictVal := Table.put s.dictVal i cw
           dictSpec := max s.dictSpec (i + 1) }

/-- The six bytes of entry `i` are read: the checks in R314's order, then the entry. The value is masked to
its low L bits (R245). -/
def entryCheck (i : Nat) (sym L : Byte) (v : Word) (s : State) : Request :=
  if 32 < L.toNat then .error s .badCodeLen
  else if dupEntry i L.toNat (v &&& lowMask L.toNat) s then .error s .dupCodeword
  else entriesLoop (i + 1) (writeEntry i sym L (v &&& lowMask L.toNat) s)

/-- Body(DEC_READ_ENTRIES) after an InPop inside entry `i`. -/
def entryGot (i : Nat) (got : List Byte) (b : Option Byte) (s : State) : Request :=
  match b with
  | none => .error s .truncated
  | some b =>
    match got ++ [b] with
    | sym :: L :: v0 :: v1 :: v2 :: v3 :: _ => entryCheck i sym L (fromBe32 v0 v1 v2 v3) s
    | g => .pop s (.entry i g)

/-! ### ReadPayloadMeta (R246) -/

/-- Body(DEC_READ_META) up to its first InPop. -/
def readMetaStart (s : State) : Request := .pop s (.bitLen [])

/-- Body(DEC_READ_META) after an InPop inside payload_bit_len. -/
def bitLenGot (got : List Byte) (b : Option Byte) (s : State) : Request :=
  match b with
  | none => .error s .truncated
  | some b =>
    match got ++ [b] with
    | b0 :: b1 :: b2 :: b3 :: _ => .pop { s with bitLen := fromBe32 b0 b1 b2 b3 } (.byteLen [])
    | g => .pop s (.bitLen g)

/-- Both lengths are read: BITLEN_EXCEEDS, in exact arithmetic, before PAYLOAD_TOO_LARGE. -/
def metaCheck (s : State) : Request :=
  if s.bitLen.toNat > 8 * s.byteLen.toNat then .error s .bitlenExceeds
  else if s.byteLen.toNat > s.cfg.payloadBytes then .error s .payloadTooLarge
  else .done { s with phase := .dPayload }

/-- Body(DEC_READ_META) after an InPop inside payload_byte_len. -/
def byteLenGot (got : List Byte) (b : Option Byte) (s : State) : Request :=
  match b with
  | none => .error s .truncated
  | some b =>
    match got ++ [b] with
    | b0 :: b1 :: b2 :: b3 :: _ => metaCheck { s with byteLen := fromBe32 b0 b1 b2 b3 }
    | g => .pop s (.byteLen g)

/-! ### Decode (R250) -/

/-- The empty candidate. -/
def Cand.empty : Cand := { cl := 0, cv := 0 }

/-- A bit appended to the candidate: `cv <- 2 × cv + bit`, `cl <- cl + 1`. -/
def Cand.append (c : Cand) (bit : Bool) : Cand := { cl := c.cl + 1, cv := 2 * c.cv + bit.toNat }

/-- The candidate of the running DEC_DECODE. -/
def State.candidate (s : State) : Cand :=
  match s.cand with
  | some c => c
  | none => Cand.empty

/-- The symbol of the first entry `i < n` whose codeword is the candidate (R251). -/
def dictLookup (c : Cand) (s : State) : Option Byte :=
  ((List.range s.dictCount.toNat).find? fun i =>
    decide ((Table.entry s.dictLen i).toNat = c.cl) && decide ((Table.entry s.dictVal i).toNat = c.cv)).map
      (Table.entry s.dictSym)

/-- The end of Body(DEC_DECODE). -/
def decodeFinish (s : State) : Request :=
  .done { s with chunkCount := s.chunkCount + 1, phase := .idle, cand := none }

/-- The whole bit string is decoded into `k` bytes of CHUNK_BUF: they are pushed (R250, R253). -/
def decodeEmit (k : Nat) (s : State) : Request :=
  match memReadList .chunk s k 0 with
  | .error f => .fault f
  | .ok bs => emit .decoded bs decodeFinish { s with curLen := BitVec.ofNat 32 k }

/-- R250's loop: `todo` bits are left, from bit `j` on, and `k` bytes are decoded. -/
def decodeLoop : (todo j k : Nat) → State → Request
  | 0, _, k, s => if s.candidate.cl ≠ 0 then .error s .unmatchedBits else decodeEmit k s
  | todo + 1, j, k, s =>
    match payloadBit j s with
    | .error f => .fault f
    | .ok bit =>
      let c := s.candidate.append bit
      let s := { s with cand := some c }
      if c.cl > 32 then .error s .unmatchedBits
      else
        match dictLookup c s with
        | none => decodeLoop todo (j + 1) k s
        | some sym =>
          if k = s.cfg.maxChunk then .error s .outputTooLarge
          else
            match memWrite .chunk k sym s with
            | .error f => .fault f
            | .ok s => decodeLoop todo (j + 1) (k + 1) { s with cand := some Cand.empty }

/-- Body(DEC_DECODE) up to its first OutPush. -/
def decodeStart (s : State) : Request :=
  decodeLoop s.bitLen.toNat 0 0 { s with cand := some Cand.empty }

end Sys2Proof.Machine
end

