-- ==== Sys2Proof/Machine/TreeBuilder.lean ====
section
/-! DEFINITION. The priority_queue_tree_builder sub-unit (spec/42_tree_builder.md). -/

namespace Sys2Proof.Machine

/-- The frequency of a node (R58). -/
def Tree.freq : Tree → Nat
  | .leaf _ f _ => f
  | .single _ f _ => f
  | .node _ _ f _ => f

/-- The key of a node (R202). -/
def Tree.key : Tree → Nat
  | .leaf _ _ k => k
  | .single _ _ k => k
  | .node _ _ _ k => k

/-- The order of PopMin: lower freq first, and among equal freq lower key first (R202). -/
def Tree.before (x y : Tree) : Bool :=
  decide (x.freq < y.freq) || (decide (x.freq = y.freq) && decide (x.key < y.key))

/-- PopMin on the queue `x :: q`: the least node and the others (R202). -/
def popMin (x : Tree) : List Tree → Tree × List Tree
  | [] => (x, [])
  | y :: q =>
    if x.before (popMin y q).1 then (x, y :: q)
    else ((popMin y q).1, x :: (popMin y q).2)

/-- The node that a merge makes: first popped right, second popped left (R203); key 256 + m (R202). -/
def mergeNode (m : Nat) (x y : Tree) : Tree := .node y x (x.freq + y.freq) (256 + m)

/-- `while |Q| > 1` of R200, with the number `m` of merges made; a merge shortens the queue by one, so
|Q| turns are enough. -/
def mergeAll : (turns m : Nat) → List Tree → List Tree
  | 0, _, q => q
  | _ + 1, _, [] => []
  | _ + 1, _, [t] => [t]
  | turns + 1, m, a :: b :: q =>
    match popMin a (b :: q) with
    | (_, []) => a :: b :: q
    | (x, c :: q1) =>
      match popMin c q1 with
      | (y, q2) => mergeAll turns (m + 1) (mergeNode m x y :: q2)

/-- The leaf of a symbol (R200, R202). -/
def leafOf (freq : Table Word) (s : Nat) : Tree :=
  .leaf (BitVec.ofNat 8 s) (freq.entry s).toNat s

/-- The queue that R200's loop leaves; for one symbol R201's root and no queue. -/
def buildQueue (freq : Table Word) : List Tree :=
  match present freq with
  | [s] => [.single (leafOf freq s) (freq.entry s).toNat 256]
  | ss => mergeAll ss.length 0 (ss.map (leafOf freq))

/-- Body(TB_BUILD) (R200). -/
def tbBuildBody (s : State) : Request :=
  .done { s with tree := (buildQueue s.freq).head?, queue := buildQueue s.freq, phase := .eTree }

end Sys2Proof.Machine
end

