-- ==== Sys2Proof/Machine/Encoder.lean ====
section
/-! DEFINITION. The huffman_encoder sub-unit (spec/41_encoder.md): the Bodies of ENC_LOAD, CT_GEN and
ENC_EMIT_DICT. -/

namespace Sys2Proof.Machine

/-! ### ENC_LOAD (R160) -/

/-- The end of Body(ENC_LOAD), `k` bytes loaded. -/
def encLoadFinish (k : Nat) (s : State) : Request :=
  let s := { s with curLen := BitVec.ofNat 32 k
                    dictCount := BitVec.ofNat 32 (present s.freq).length }
  if k = 0 then .done { s with endFlag := true } else .done { s with phase := .eLoaded }

/-- The head of the loop `while k < cs`. -/
def encLoadLoop (cs k : Nat) (s : State) : Request :=
  if k < cs then .pop s (.load cs k) else encLoadFinish k s

/-- Body(ENC_LOAD) up to its first InPop. CHUNK_SIZE is read once (R365). -/
def encLoadStart (s : State) : Request :=
  encLoadLoop s.chunkSize.toNat 0
    { s with freq := Table.zero 32, freqSpec := true, bitLen := 0#32, byteLen := 0#32 }

/-- Body(ENC_LOAD) after the InPop for byte `k`. -/
def encLoadGot (cs k : Nat) (b : Option Byte) (s : State) : Request :=
  match b with
  | none => encLoadFinish k s
  | some b =>
    match memWrite .chunk k b s with
    | .error f => .fault f
    | .ok s =>
      encLoadLoop cs (k + 1)
        { s with freq := Table.put s.freq b.toNat (Table.entry s.freq b.toNat + 1) }

/-! ### CT_GEN (R170) -/

/-- The leaves of a tree, each with its path (R171): 0 to the left, 1 to the right. -/
def Tree.paths : Tree → Bits → List (Byte × Bits)
  | .leaf sym _ _, p => [(sym, p)]
  | .single c _ _, p => c.paths (p ++ [false])
  | .node l r _ _, p => l.paths (p ++ [false]) ++ r.paths (p ++ [true])

/-- The leaves CT_GEN visits. -/
def leavesOf (t : Option Tree) : List (Byte × Bits) :=
  match t with
  | some t => t.paths []
  | none => []

/-- CODE_LEN after the leaves' assignments to a zero table. -/
def codeLenOf (leaves : List (Byte × Bits)) : Table (BitVec 6) :=
  leaves.foldl (fun t l => Table.put t l.1.toNat (BitVec.ofNat 6 l.2.length)) (Table.zero 6)

/-- CODE_VAL after the leaves' assignments to a zero table. -/
def codeValOf (leaves : List (Byte × Bits)) : Table Word :=
  leaves.foldl (fun t l => Table.put t l.1.toNat (BitVec.ofNat 32 (bitsVal l.2))) (Table.zero 32)

/-- Σ over s in 0..255 of FREQ[s] × CODE_LEN[s], exact (R170, R23). -/
def payloadBits (freq : Table Word) (codeLen : Table (BitVec 6)) : Nat :=
  (List.zipWith (fun f l => f.toNat * l.toNat) freq.toList codeLen.toList).sum

/-- Body(CT_GEN) (R170). A leaf deeper than 32 is an error, and the CODE tables are then unspecified
(R52, U5; log 12). -/
def ctGenBody (s : State) : Request :=
  let leaves := leavesOf s.tree
  if leaves.any (fun l => decide (32 < l.2.length)) then .error { s with codeSpec := false } .codeTooLong
  else
    let bitLen := BitVec.ofNat 32 (payloadBits s.freq (codeLenOf leaves))
    .done { s with
      codeLen := codeLenOf leaves
      codeVal := codeValOf leaves
      codeSpec := true
      tree := none, queue := []
      bitLen := bitLen
      byteLen := BitVec.ofNat 32 (ceil8 bitLen.toNat)
      phase := .eCodes }

/-! ### ENC_EMIT_DICT (R175) -/

/-- The dictionary entry of symbol `sym`: 6 bytes (spec/30_encoding.md R121). -/
def dictEntry (codeLen : Table (BitVec 6)) (codeVal : Table Word) (sym : Nat) : List Byte :=
  BitVec.ofNat 8 sym :: (codeLen.entry sym).setWidth 8 :: be32 (codeVal.entry sym)

/-- The bytes ENC_EMIT_DICT pushes: the count, then the entries in ascending symbol order. -/
def dictBytes (s : State) : List Byte :=
  be32 s.dictCount ++ (present s.freq).flatMap (dictEntry s.codeLen s.codeVal)

/-- The end of Body(ENC_EMIT_DICT). -/
def emitDictFinish (s : State) : Request := .done { s with phase := .eDict }

/-- Body(ENC_EMIT_DICT) up to its first OutPush. -/
def emitDictStart (s : State) : Request := emit .dict (dictBytes s) emitDictFinish s

end Sys2Proof.Machine
end

