-- ==== Sys2Proof/Machine/Engine.lean ====
section
/-! DEFINITION. The engine: how a command goes on from its position, and one engine step of a command
(spec/40_control.md R150 to R153). -/

namespace Sys2Proof.Machine

/-- The Bodies that have stream operations. -/
inductive Body where
  | load | dict | pack | count | entries | lengths | payload | decode
  deriving DecidableEq, Repr

/-- The Body a position is in. -/
def PopSite.body : PopSite → Body
  | .load _ _ => .load
  | .count _ => .count
  | .entry _ _ => .entries
  | .bitLen _ => .lengths
  | .byteLen _ => .lengths
  | .payload _ => .payload

/-- The Body a position is in. -/
def PushSite.body : PushSite → Body
  | .dict => .dict
  | .pack => .pack
  | .decoded => .decode

/-- A Body goes on after an InPop. -/
def afterPop (site : PopSite) (b : Option Byte) (s : State) : Request :=
  match site with
  | .load cs k => encLoadGot cs k b s
  | .count got => readCountGot got b s
  | .entry i got => entryGot i got b s
  | .bitLen got => bitLenGot got b s
  | .byteLen got => byteLenGot got b s
  | .payload t => payloadGot t b s

/-- A Body goes on after its last OutPush. -/
def afterPushes (site : PushSite) (s : State) : Request :=
  match site with
  | .dict => emitDictFinish s
  | .pack => packFinish s
  | .decoded => decodeFinish s

/-- A Body goes on after an OutPush, with the bytes `rest` still to be pushed. -/
def afterPush (site : PushSite) (rest : List Byte) (s : State) : Request :=
  emit site rest (afterPushes site) s

/-- The computation of command `i` from its position to its next stream operation or its end. At the start
the phase check comes before anything else (R113, R150); `begin` is the command's Body, and `next` says
what follows when one of the Bodies it is made of ends. -/
def compute (i : Instr) (begin : State → Request) (next : Body → State → Request) (s : State) : Request :=
  match s.point with
  | .start => if allowedIn i s.phase then begin s else .error s .sequence
  | .popped site b => (afterPop site b s).andThen (next site.body)
  | .pushed site rest => (afterPush site rest s).andThen (next site.body)

/-- One engine step of command `i` (R153). -/
def engineStep (i : Instr) (begin : State → Request) (next : Body → State → Request) (s : State) :
    Host.Outcome State Fault Refusal :=
  finishStep (s.accept i) (compute i begin next (s.accept i))

/-- What follows a Body of a command that is that one Body: its end, and Complete (R150). -/
def atEnd (_ : Body) (s : State) : Request := .done s

end Sys2Proof.Machine
end

