-- ==== Sys2Proof/Machine/Compress.lean ====
section
/-! DEFINITION. The meanings of the encoder's commands: the steps ENC_LOAD, TB_BUILD, CT_GEN, ENC_EMIT_DICT,
BP_PACK and the composites ENC_CHUNK, ENC_ALL (spec/41_encoder.md, 42_tree_builder.md, 43_bit_packer.md). -/

namespace Sys2Proof.Machine

/-- ENC_LOAD (R160). -/
def execEncLoad (s : State) : Host.Outcome State Fault Refusal := engineStep .encLoad encLoadStart atEnd s

/-- TB_BUILD (R200). -/
def execTbBuild (s : State) : Host.Outcome State Fault Refusal := engineStep .tbBuild tbBuildBody atEnd s

/-- CT_GEN (R170). -/
def execCtGen (s : State) : Host.Outcome State Fault Refusal := engineStep .ctGen ctGenBody atEnd s

/-- ENC_EMIT_DICT (R175). -/
def execEncEmitDict (s : State) : Host.Outcome State Fault Refusal :=
  engineStep .encEmitDict emitDictStart atEnd s

/-- BP_PACK (R220). -/
def execBpPack (s : State) : Host.Outcome State Fault Refusal := engineStep .bpPack packStart atEnd s

/-- What R180 and R182 do after `call ENC_LOAD`: return when no byte was loaded, else TB_BUILD, CT_GEN and
ENC_EMIT_DICT. -/
def afterLoad (s : State) : Request :=
  if s.curLen = 0#32 then .done s
  else ((tbBuildBody s).andThen ctGenBody).andThen emitDictStart

/-- What follows each Body of ENC_CHUNK (R180). -/
def encChunkNext : Body → State → Request
  | .load, s => afterLoad s
  | .dict, s => packStart s
  | .pack, s => .done s
  | .count, s => .done s
  | .entries, s => .done s
  | .lengths, s => .done s
  | .payload, s => .done s
  | .decode, s => .done s

/-- ENC_CHUNK (R180). -/
def execEncChunk (s : State) : Host.Outcome State Fault Refusal :=
  engineStep .encChunk (fun s => (encLoadStart s).andThen afterLoad) encChunkNext s

/-- What follows each Body of ENC_ALL (R182): after BP_PACK the loop starts again. -/
def encAllNext : Body → State → Request
  | .load, s => afterLoad s
  | .dict, s => packStart s
  | .pack, s => (encLoadStart s).andThen afterLoad
  | .count, s => .done s
  | .entries, s => .done s
  | .lengths, s => .done s
  | .payload, s => .done s
  | .decode, s => .done s

/-- ENC_ALL (R182). -/
def execEncAll (s : State) : Host.Outcome State Fault Refusal :=
  engineStep .encAll (fun s => (encLoadStart s).andThen afterLoad) encAllNext s

end Sys2Proof.Machine
end

