-- ==== Sys2Proof/Machine/Control.lean ====
section
/-! DEFINITION. The control commands NOP and CLEAR (spec/40_control.md R154, R156). -/

namespace Sys2Proof.Machine

/-- Body(NOP): nothing (R154). -/
def nopBody (s : State) : Request := .done s

/-- Body(CLEAR) (R156). CHUNK_SIZE, IRQ_EN, IRQ_STATUS.DONE, the tables and the buffers stay. -/
def clearBody (s : State) : Request :=
  .done { s with
    phase := .idle
    errCode := 0#8, errInfo := 0#12
    endFlag := false, cmdDrop := false, inClosed := false
    inFifo := [], outFifo := []
    chunkCount := 0#32, inCount := 0#32, outCount := 0#32
    curLen := 0#32, dictCount := 0#32, bitLen := 0#32, byteLen := 0#32
    irqStatus := clearErr s.irqStatus
    tree := none, queue := [] }

/-- NOP (R154). -/
def execNop (s : State) : Host.Outcome State Fault Refusal := engineStep .nop nopBody atEnd s

/-- CLEAR (R156). -/
def execClear (s : State) : Host.Outcome State Fault Refusal := engineStep .clear clearBody atEnd s

end Sys2Proof.Machine
end

