-- ==== Sys2Proof/Machine/Decompress.lean ====
section
/-! DEFINITION. The meanings of the decoder's commands: the steps DEC_READ_COUNT, DEC_READ_ENTRIES,
DEC_READ_META, BU_READ_PAYLOAD, DEC_DECODE and the composites DEC_CHUNK, DEC_ALL (spec/44_decoder.md,
45_bitstream_unpacker.md). -/

namespace Sys2Proof.Machine

/-- DEC_READ_COUNT (R240). -/
def execDecReadCount (s : State) : Host.Outcome State Fault Refusal :=
  engineStep .decReadCount readCountStart atEnd s

/-- DEC_READ_ENTRIES (R243). -/
def execDecReadEntries (s : State) : Host.Outcome State Fault Refusal :=
  engineStep .decReadEntries readEntriesStart atEnd s

/-- DEC_READ_META (R246). -/
def execDecReadMeta (s : State) : Host.Outcome State Fault Refusal :=
  engineStep .decReadMeta readMetaStart atEnd s

/-- BU_READ_PAYLOAD (R290). -/
def execBuReadPayload (s : State) : Host.Outcome State Fault Refusal :=
  engineStep .buReadPayload payloadStart atEnd s

/-- DEC_DECODE (R250). -/
def execDecDecode (s : State) : Host.Outcome State Fault Refusal :=
  engineStep .decDecode decodeStart atEnd s

/-- What R258 and R260 do after `call DEC_READ_COUNT`: return when PHASE is IDLE, else DEC_READ_ENTRIES and
DEC_READ_META. -/
def afterCount (s : State) : Request :=
  if s.phase = .idle then .done s else (readEntriesStart s).andThen readMetaStart

/-- What follows each Body of DEC_CHUNK (R258). -/
def decChunkNext : Body → State → Request
  | .count, s => afterCount s
  | .entries, s => readMetaStart s
  | .lengths, s => (payloadStart s).andThen decodeStart
  | .payload, s => decodeStart s
  | .decode, s => .done s
  | .load, s => .done s
  | .dict, s => .done s
  | .pack, s => .done s

/-- DEC_CHUNK (R258). -/
def execDecChunk (s : State) : Host.Outcome State Fault Refusal :=
  engineStep .decChunk readCountStart decChunkNext s

/-- What follows each Body of DEC_ALL (R260): after DEC_DECODE the loop starts again. -/
def decAllNext : Body → State → Request
  | .count, s => afterCount s
  | .entries, s => readMetaStart s
  | .lengths, s => ((payloadStart s).andThen decodeStart).andThen readCountStart
  | .payload, s => (decodeStart s).andThen readCountStart
  | .decode, s => readCountStart s
  | .load, s => .done s
  | .dict, s => .done s
  | .pack, s => .done s

/-- DEC_ALL (R260). -/
def execDecAll (s : State) : Host.Outcome State Fault Refusal :=
  engineStep .decAll readCountStart decAllNext s

end Sys2Proof.Machine
end

