-- ==== Sys2Proof/Machine/Dispatch.lean ====
section
/-! DEFINITION. The meaning of each command: one engine step of it, from the position the state holds. -/

namespace Sys2Proof.Machine

def exec (i : Instr) (s : State) : Host.Outcome State Fault Refusal :=
  match i with
  | .nop => Sys2Proof.Machine.execNop s
  | .clear => Sys2Proof.Machine.execClear s
  | .encLoad => Sys2Proof.Machine.execEncLoad s
  | .tbBuild => Sys2Proof.Machine.execTbBuild s
  | .ctGen => Sys2Proof.Machine.execCtGen s
  | .encEmitDict => Sys2Proof.Machine.execEncEmitDict s
  | .bpPack => Sys2Proof.Machine.execBpPack s
  | .encChunk => Sys2Proof.Machine.execEncChunk s
  | .encAll => Sys2Proof.Machine.execEncAll s
  | .decReadCount => Sys2Proof.Machine.execDecReadCount s
  | .decReadEntries => Sys2Proof.Machine.execDecReadEntries s
  | .decReadMeta => Sys2Proof.Machine.execDecReadMeta s
  | .buReadPayload => Sys2Proof.Machine.execBuReadPayload s
  | .decDecode => Sys2Proof.Machine.execDecDecode s
  | .decChunk => Sys2Proof.Machine.execDecChunk s
  | .decAll => Sys2Proof.Machine.execDecAll s

end Sys2Proof.Machine
end

