-- ==== Sys2Proof/Machine/Ports.lean ====
section
/-! DEFINITION. The host's side: the CSR port with its register map, the two stream ports, reset, and the
host's moves (spec/10_state.md R30 to R55, spec/20_memory.md R84 to R93, spec/30_encoding.md R117,
spec/40_control.md R150, spec/70_reset_and_hazards.md R350). -/

namespace Sys2Proof.Machine

/-! ### The register map (R30) -/

/-- The registers of R30. -/
inductive Csr where
  | id | cmd | status | ctrl | chunkSize | irqEn | irqStatus | errCode | errInfo | chunkCount | inCount
  | outCount | curLen | dictCount | bitLen | byteLen | maxChunk
  | freq (s : Nat) | codeVal (s : Nat) | codeLen (s : Nat) | dictSymLen (i : Nat) | dictVal (i : Nat)
  | unmapped
  deriving DecidableEq, Repr

/-- The single registers of R30 by address. -/
def csrRows : List (Nat × Csr) :=
  [(0x0000, .id), (0x0004, .cmd), (0x0008, .status), (0x000C, .ctrl), (0x0010, .chunkSize),
   (0x0014, .irqEn), (0x0018, .irqStatus), (0x001C, .errCode), (0x0020, .errInfo), (0x0024, .chunkCount),
   (0x0028, .inCount), (0x002C, .outCount), (0x0030, .curLen), (0x0034, .dictCount), (0x0038, .bitLen),
   (0x003C, .byteLen), (0x0040, .maxChunk)]

/-- The register of a word address among the rows. -/
def lookupCsr (wa : Nat) : List (Nat × Csr) → Csr
  | [] => .unmapped
  | (a, r) :: rows => if a = wa then r else lookupCsr wa rows

/-- The register that a byte address reaches: bits 15:2 select it, bits 1:0 are ignored (R92); every address
not listed is unmapped (R30, R55). -/
def csrAt (a : Addr) : Csr :=
  let wa := a.toNat / 4 * 4
  if 0x0400 ≤ wa ∧ wa < 0x0800 then .freq ((wa - 0x0400) / 4)
  else if 0x0800 ≤ wa ∧ wa < 0x0C00 then .codeVal ((wa - 0x0800) / 4)
  else if 0x0C00 ≤ wa ∧ wa < 0x1000 then .codeLen ((wa - 0x0C00) / 4)
  else if 0x1000 ≤ wa ∧ wa < 0x1400 then .dictSymLen ((wa - 0x1000) / 4)
  else if 0x1400 ≤ wa ∧ wa < 0x1800 then .dictVal ((wa - 0x1400) / 4)
  else lookupCsr wa csrRows

/-- The constant ID (R34). -/
def idWord : Word := 0x48554646#32

/-- DICT_SYMLEN: DICT_SYM in bits 7:0, DICT_LEN in bits 13:8, 0 above (R54). -/
def symLenWord (sym : Byte) (len : BitVec 6) : Word := 0#18 ++ len ++ sym

/-- The exact value of each register (R34 to R54); CMD, CTRL and unmapped addresses read 0 (R30, R55). -/
def csrExact (r : Csr) (s : State) : Word :=
  match r with
  | .id => idWord
  | .cmd => 0#32
  | .status => statusWord s.phase s
  | .ctrl => 0#32
  | .chunkSize => s.chunkSize
  | .irqEn => s.irqEn.setWidth 32
  | .irqStatus => s.irqStatus.setWidth 32
  | .errCode => s.errCode.setWidth 32
  | .errInfo => s.errInfo.setWidth 32
  | .chunkCount => s.chunkCount
  | .inCount => s.inCount
  | .outCount => s.outCount
  | .curLen => s.curLen
  | .dictCount => s.dictCount
  | .bitLen => s.bitLen
  | .byteLen => s.byteLen
  | .maxChunk => BitVec.ofNat 32 s.cfg.maxChunk
  | .freq i => Table.entry s.freq i
  | .codeVal i => Table.entry s.codeVal i
  | .codeLen i => (Table.entry s.codeLen i).setWidth 32
  | .dictSymLen i => symLenWord (Table.entry s.dictSym i) (Table.entry s.dictLen i)
  | .dictVal i => Table.entry s.dictVal i
  | .unmapped => 0#32

/-- Entry `i` of the dictionary windows holds a value the spec fixes: it has been written since reset, and
it is below DICT_COUNT (R54, U1, U4; log 11). -/
def dictFixed (i : Nat) (s : State) : Bool :=
  decide (i < s.dictSpec) && decide (i < s.dictCount.toNat)

/-- The value a read returns is fixed by the spec. While BUSY = 1 only the registers R53 names are, and the
ones that always read 0 (U15; log 18); STATUS then has its PHASE field free, see `readCsr`. -/
def csrFixed (r : Csr) (s : State) : Bool :=
  match r with
  | .id => true
  | .cmd => true
  | .status => true
  | .ctrl => true
  | .chunkSize => true
  | .irqEn => true
  | .irqStatus => true
  | .errCode => true
  | .inCount => true
  | .outCount => true
  | .maxChunk => true
  | .unmapped => true
  | .errInfo => !s.busy
  | .chunkCount => !s.busy
  | .curLen => !s.busy
  | .dictCount => !s.busy
  | .bitLen => !s.busy
  | .byteLen => !s.busy
  | .freq _ => !s.busy && s.freqSpec
  | .codeVal _ => !s.busy && s.codeSpec
  | .codeLen _ => !s.busy && s.codeSpec
  | .dictSymLen i => !s.busy && dictFixed i s
  | .dictVal i => !s.busy && dictFixed i s

/-- A length that the spec leaves unspecified, in the range 0..32 that it fixes (R52, R54), taken from bits 31:8
of a free value. -/
def freeLen (w : Word) : BitVec 6 := BitVec.ofNat 6 (w.toNat / 256 % 33)

/-- What a read returns where the spec leaves the value unspecified: the free value `w`, in the bits the register
has (reserved bits read 0, R55). While BUSY = 0 an unspecified length stays in 0..32 (R52, R54; log 9, 11). -/
def csrFree (r : Csr) (w : Word) (s : State) : Word :=
  match r with
  | .errInfo => (w.setWidth 12).setWidth 32
  | .codeLen _ => if s.busy then (w.setWidth 6).setWidth 32 else (freeLen w).setWidth 32
  | .dictSymLen _ => if s.busy then (w.setWidth 14).setWidth 32 else symLenWord (w.setWidth 8) (freeLen w)
  | _ => w

/-- The accepted command has not begun and may not run in the present phase: its first engine step raises SEQUENCE
(spec/30_encoding.md R113). -/
def aboutToRaiseSequence (i : Instr) (s : State) : Bool := decide (s.point = .start) && !allowedIn i s.phase

/-- The phases that a read of STATUS may show while BUSY = 1: those the running command passes through (R53), the
present one among them. A command that is about to raise SEQUENCE, or an illegal word, passes through the phase
it was accepted in and no other (log 10). -/
def shownPhases (s : State) : List Phase :=
  match s.fetch with
  | some (.ok i) => if aboutToRaiseSequence i s then [s.phase] else s.phase :: phasesOf i
  | _ => [s.phase]

/-- One of those phases, a free choice (R53, U3; log 10). -/
def shownPhase (s : State) : Phase :=
  (shownPhases s).getD (Config.freePick s.free % (shownPhases s).length) s.phase

/-- The next free value is another one (log 9). -/
def State.tick (s : State) : State := { s with free := s.free + 1 }

/-- One 32-bit read: the value, and the state; where a free value was used while BUSY = 1 the counter of free values
has advanced, so that two such reads may differ, and nothing else ever changes: reads have no side effects, and
while BUSY = 0 they are idempotent (R93). -/
def readCsr (a : Addr) (s : State) : Word × State :=
  match csrAt a with
  | .status =>
    if s.busy then (statusWord (shownPhase s) s, s.tick) else (statusWord s.phase s, s)
  | r =>
    if csrFixed r s then (csrExact r s, s)
    else (csrFree r (Config.freeWord s.free (a.toNat / 4)) s, if s.busy then s.tick else s)

/-! ### Writes -/

/-- Acceptance of a command word (R150): dropped while BUSY = 1, and in PHASE = ERROR unless it is NOP or
CLEAR; else BUSY ← 1 and the engine starts it (log 5). What the spec leaves unspecified may differ after it, so the
counter of free values advances (log 9). -/
def writeCmd (w : Word) (s : State) : State :=
  if s.busy then { s with cmdDrop := true }
  else if s.phase = .error ∧ w ≠ 0x00000000#32 ∧ w ≠ 0x00000001#32 then { s with cmdDrop := true }
  else { s with run := some { word := w, point := .start }, free := s.free + 1 }

/-- A write of CTRL: bit 0 IN_CLOSE = 1 closes the input stream (R38, R84). -/
def writeCtrl (v : Word) (s : State) : State :=
  if v.getLsbD 0 then { s with inClosed := true } else s

/-- A write of CHUNK_SIZE: ignored while BUSY = 1, and where the value is outside 1..MAX_CHUNK (R39). -/
def writeChunkSize (v : Word) (s : State) : State :=
  if s.busy then s
  else if 1 ≤ v.toNat ∧ v.toNat ≤ s.cfg.maxChunk then { s with chunkSize := v }
  else s

/-- One 32-bit write (R37 to R41); writes to read-only registers and to unmapped addresses are ignored (R55).
While `rst_n` is asserted every write is ignored (R350). -/
def writeCsr (a : Addr) (v : Word) (s : State) : State :=
  if s.inReset then s
  else
    match csrAt a with
    | .cmd => writeCmd v s
    | .ctrl => writeCtrl v s
    | .chunkSize => writeChunkSize v s
    | .irqEn => { s with irqEn := v.setWidth 2 }
    | .irqStatus => { s with irqStatus := ackIrq s.irqStatus v }
    | .id => s
    | .status => s
    | .errCode => s
    | .errInfo => s
    | .chunkCount => s
    | .inCount => s
    | .outCount => s
    | .curLen => s
    | .dictCount => s
    | .bitLen => s
    | .byteLen => s
    | .maxChunk => s
    | .freq _ => s
    | .codeVal _ => s
    | .codeLen _ => s
    | .dictSymLen _ => s
    | .dictVal _ => s
    | .unmapped => s

/-! ### The stream ports -/

/-- `s_in` can take a byte (R87). -/
def sendReady (s : State) : Bool := decide (s.inFifo.length < s.cfg.inDepth) && !s.inClosed

/-- One completed `s_in` transfer (R87). -/
def sendByte (b : Byte) (last : Bool) (s : State) : State :=
  { s with inFifo := s.inFifo ++ [b], inClosed := s.inClosed || last }

/-- `m_out` offers a byte (R88); none while `rst_n` is asserted (R350). -/
def recvReady (s : State) : Bool := !s.outFifo.isEmpty && !s.inReset

/-- One read on `m_out`: the head byte is taken (R88). -/
def recvByte (s : State) : State :=
  match s.outFifo with
  | b :: rest => { s with outFifo := rest, replies := s.replies ++ [.byte b] }
  | [] => s

/-! ### Reset -/

/-- Reset (R350): every field of the block at its reset value, whatever it was doing. The host, its replies and
the counters of free values are no part of the block; what is unspecified after it holds other free values (log 3,
9, 13). -/
def State.resetBlock (s : State) : State :=
  { State.resetOf s.cfg with
    inReset := s.inReset, epoch := s.epoch + 1, free := s.free + 1, host := s.host, replies := s.replies }

/-! ### The host's moves -/

/-- The move can be made now. A transfer that its port does not take yet, or a wait whose condition does not
hold yet, waits (R86 to R88, R117; log 8). -/
def Move.ready (m : Move) (s : State) : Bool :=
  match m with
  | .csrRead _ => true
  | .csrWrite _ _ => true
  | .send _ _ => s.inReset || sendReady s
  | .recv => recvReady s
  | .waitIdle => !s.busy
  | .waitIrq => s.irq
  | .engine => true
  | .ackSameStep _ => true
  | .rstAssert => true
  | .rstRelease => true

/-- A CSR read with its answer delivered to the host. -/
def readReply (a : Addr) (s : State) : State :=
  { (readCsr a s).2 with replies := (readCsr a s).2.replies ++ [.csr a (readCsr a s).1] }

/-- A write of IRQ_STATUS, unless `rst_n` is asserted (R41, R350). -/
def ackWrite (v : Word) (s : State) : State := writeCsr 0x0018#16 v s

/-- What a move does to the block. A transfer on `s_in` while `rst_n` is asserted is ignored (R350; log 13).
`engine` and `ackSameStep` also give the engine its turn, see `step`. -/
def Move.act (m : Move) (s : State) : State :=
  match m with
  | .csrRead a => readReply a s
  | .csrWrite a v => writeCsr a v s
  | .send b last => if s.inReset then s else sendByte b last s
  | .recv => recvByte s
  | .waitIdle => readReply 0x0008#16 s
  | .waitIrq => s
  | .engine => s
  | .ackSameStep v => ackWrite v s
  | .rstAssert => { s.resetBlock with inReset := true }
  | .rstRelease => { s.resetBlock with inReset := false }

/-- The move leaves the same step to the engine (log 4, 14). -/
def Move.leavesEngine : Move → Bool
  | .csrRead _ => false
  | .csrWrite _ _ => false
  | .send _ _ => false
  | .recv => false
  | .waitIdle => false
  | .waitIrq => false
  | .engine => true
  | .ackSameStep _ => true
  | .rstAssert => false
  | .rstRelease => false

/-! ### Program notation (R117) -/

/-- `cmd MNEMONIC`. -/
def Move.cmd (i : Instr) : Move := .csrWrite 0x0004#16 (encode i)

/-- `close`. -/
def Move.close : Move := .csrWrite 0x000C#16 0x00000001#32

/-- `push b0 b1 …`. -/
def pushMoves (bs : List Byte) : List Move := bs.map fun b => .send b false

/-- `push_last b0 … bn`. -/
def pushLastMoves : List Byte → List Move
  | [] => []
  | [b] => [.send b true]
  | b :: c :: bs => .send b false :: pushLastMoves (c :: bs)

/-- `pop N`. -/
def popMoves (n : Nat) : List Move := List.replicate n .recv

end Sys2Proof.Machine
end

