-- ==== Sys2Proof/Machine/Step.lean ====
section
/-! DEFINITION. One step of the machine: a host action or an engine step (spec/60_exceptions.md R315,
spec/40_control.md R153). -/

namespace Sys2Proof.Machine

/-- The engine's turn: one engine step of the running command. An illegal word raises ILLEGAL_CMD (R112,
R150). Without a command, and while `rst_n` is asserted, the engine does nothing (R350, R351; log 7). -/
def engineTurn (s : State) : Host.Outcome State Fault Refusal :=
  if s.inReset then .next s
  else
    match s.fetch with
    | none => .next s
    | some (.ok i) => exec i s
    | some (.error _) => .next (s.raiseError .illegalCmd)

/-- One step. The host's next move is made if it can be; where it cannot, and where there is none, it is the
engine's turn (log 4, 8). -/
def step (s : State) : Host.Outcome State Fault Refusal :=
  match s.host with
  | [] => engineTurn s
  | m :: rest =>
    if m.ready s then
      if m.leavesEngine then engineTurn (m.act { s with host := rest })
      else .next (m.act { s with host := rest })
    else engineTurn s

/-- The state whose next step is the first engine step of the command word `w`: the word is accepted (R150) as
after a write to CMD, `rst_n` is not asserted, and the next turn is the engine's (log 5). -/
def State.withFetchWord (s : State) (nbits w : Nat) : State :=
  { s with
    run := some { word := BitVec.ofNat 32 (w % 2 ^ nbits), point := .start }
    inReset := false
    host := .engine :: s.host }

end Sys2Proof.Machine
end

