-- ==== Sys2Proof/Safety.lean ====
section
/-! DEFINITION. What counts as a safe run, and the notions that statements about runs use. -/

namespace Sys2Proof.Machine

/-! ### Where a command stands -/

/-- The block is about to run command `i` from its start: it is idle and takes `i` now, or it has accepted
`i`'s word and the engine has not begun (spec/40_control.md R150). -/
def AtStart (i : Instr) (s : State) : Prop :=
  s.run = none ∨ s.run = some { word := encode i, point := .start }

/-- The block runs command `i`, at position `p`. -/
def AtPoint (i : Instr) (p : Point) (s : State) : Prop := s.run = some { word := encode i, point := p }

/-- The positions a command can be in: the stream operations of its own Body and, in a composite, of the
Bodies it calls (spec/41_encoder.md R180, R182; spec/44_decoder.md R258, R260). -/
def hasBody (i : Instr) (b : Body) : Bool :=
  match i with
  | .nop            => false
  | .clear          => false
  | .encLoad        => b = .load
  | .tbBuild        => false
  | .ctGen          => false
  | .encEmitDict    => b = .dict
  | .bpPack         => b = .pack
  | .encChunk       => b = .load || b = .dict || b = .pack
  | .encAll         => b = .load || b = .dict || b = .pack
  | .decReadCount   => b = .count
  | .decReadEntries => b = .entries
  | .decReadMeta    => b = .lengths
  | .buReadPayload  => b = .payload
  | .decDecode      => b = .decode
  | .decChunk       => b = .count || b = .entries || b = .lengths || b = .payload || b = .decode
  | .decAll         => b = .count || b = .entries || b = .lengths || b = .payload || b = .decode

/-- The position belongs to the command. -/
def hasPoint (i : Instr) (p : Point) : Bool :=
  match p with
  | .start => true
  | .popped site _ => hasBody i site.body
  | .pushed site _ => hasBody i site.body

/-! ### The invariant -/

/-- Every index listed in a buffer exists (spec/20_memory.md R80). -/
def Memory.below (m : Memory) (n : Nat) : Prop := ∀ c ∈ m, c.1 < n

/-- The block's stores keep to their sizes: the parameters are legal (R11, R13), CHUNK_SIZE is legal (R39),
the FIFOs are within their depths (R83), the buffers are canonical and within their sizes (R80), every
length of a code or dictionary entry is at most 32 and dictionary values are masked to it (R52, R54), CUR_LEN
is at most MAX_CHUNK. -/
structure Sized (s : State) : Prop where
  cfg        : s.cfg.wellFormed = true
  chunkSize  : 1 ≤ s.chunkSize.toNat ∧ s.chunkSize.toNat ≤ s.cfg.maxChunk
  inFifo     : s.inFifo.length ≤ s.cfg.inDepth
  outFifo    : s.outFifo.length ≤ s.cfg.outDepth
  chunkBuf   : Memory.wf s.chunkBuf = true ∧ Memory.below s.chunkBuf s.cfg.maxChunk
  payloadBuf : Memory.wf s.payloadBuf = true ∧ Memory.below s.payloadBuf s.cfg.payloadBytes
  codeLen    : ∀ i, (Table.entry s.codeLen i).toNat ≤ 32
  dictLen    : ∀ i, (Table.entry s.dictLen i).toNat ≤ 32
  dictVal    : ∀ i, (Table.entry s.dictVal i).toNat < 2 ^ (Table.entry s.dictLen i).toNat
  curLen     : s.curLen.toNat ≤ s.cfg.maxChunk

/-- What holds at the position of the running command: the phase of the Body it is in, and the bounds of its
local variables. -/
def PointOk (s : State) : Point → Prop
  | .start => True
  | .popped (.load cs k) _ => s.phase = .idle ∧ k < cs ∧ cs ≤ s.cfg.maxChunk
  | .popped (.count got) _ => s.phase = .idle ∧ got.length ≤ 3
  | .popped (.entry i got) _ => s.phase = .dEntries ∧ i < s.dictCount.toNat ∧ got.length ≤ 5
  | .popped (.bitLen got) _ => s.phase = .dMeta ∧ got.length ≤ 3
  | .popped (.byteLen got) _ => s.phase = .dMeta ∧ got.length ≤ 3
  | .popped (.payload t) _ => s.phase = .dPayload ∧ t < s.byteLen.toNat
  | .pushed .dict _ => s.phase = .eCodes
  | .pushed .pack _ => s.phase = .eDict
  | .pushed .decoded _ => s.phase = .dDecode

/-- The running command: its word is one of the table's, or it has not begun; its position belongs to it. -/
def RunOk (s : State) (r : Run) : Prop :=
  PointOk s r.point ∧
    match decode r.word with
    | .ok i => hasPoint i r.point = true
    | .error _ => r.point = .start

/-- The control state is consistent: ERR_CODE is recorded exactly in PHASE = ERROR (R42, R310), where only NOP
and CLEAR run (R312); the dictionary count is at most 256 and the payload fits its buffer from the phase on
in which they are checked (R240, R246); the tree exists only in E_TREE (R57), the candidate only while
DEC_DECODE runs (R59); nothing runs while `rst_n` is asserted (R350). -/
structure Controlled (s : State) : Prop where
  error     : s.phase = .error ↔ s.errCode ≠ 0#8
  errorRun  : s.phase = .error → ∀ r, s.run = some r →
                (r.word = encode .nop ∨ r.word = encode .clear) ∧ r.point = .start
  dict      : s.phase = .dEntries ∨ s.phase = .dMeta ∨ s.phase = .dPayload ∨ s.phase = .dDecode →
                s.dictCount.toNat ≤ 256
  payload   : s.phase = .dPayload ∨ s.phase = .dDecode →
                s.bitLen.toNat ≤ 8 * s.byteLen.toNat ∧ s.byteLen.toNat ≤ s.cfg.payloadBytes
  tree      : s.phase ≠ .eTree → s.tree = none ∧ s.queue = []
  cand      : s.cand ≠ none → ∃ w rest, s.run = some { word := w, point := .pushed .decoded rest }
  run       : ∀ r, s.run = some r → RunOk s r
  reset     : s.inReset = true → s.run = none

/-- The invariant of the block: every step keeps it, and from a state that has it no step faults. -/
structure Inv (s : State) : Prop where
  sized      : Sized s
  controlled : Controlled s

/-- The frequencies counted so far, summed (spec/41_encoder.md R161). -/
def freqSum (freq : Table Word) : Nat := ((List.range 256).map fun s => (Table.entry freq s).toNat).sum

/-- Conservation (R161): from E_LOADED to E_DICT the frequencies sum to CUR_LEN, which is at least 1, and
DICT_COUNT is the number of symbols present; while ENC_LOAD runs they sum to the bytes stored so far. -/
structure Conserved (s : State) : Prop where
  loaded  : s.phase = .eLoaded ∨ s.phase = .eTree ∨ s.phase = .eCodes ∨ s.phase = .eDict →
              freqSum s.freq = s.curLen.toNat ∧ 1 ≤ s.curLen.toNat ∧
                s.dictCount.toNat = (present s.freq).length
  loading : ∀ w cs k b, s.run = some { word := w, point := .popped (.load cs k) b } → freqSum s.freq = k

/-! ### Command words -/

/-- The reserved opcodes (spec/30_encoding.md R112): 0x02–0x0F, 0x15–0x17, 0x1A–0x1F, 0x25–0x27, 0x2A–0xFF. -/
def ReservedOpcode (op : Byte) : Prop :=
  (0x02 ≤ op.toNat ∧ op.toNat ≤ 0x0F) ∨ (0x15 ≤ op.toNat ∧ op.toNat ≤ 0x17) ∨
    (0x1A ≤ op.toNat ∧ op.toNat ≤ 0x1F) ∨ (0x25 ≤ op.toNat ∧ op.toNat ≤ 0x27) ∨ 0x2A ≤ op.toNat

/-- The commands with the one phase each may run in (R113); NOP and CLEAR run in any. -/
def phaseRows : List (Instr × Phase) :=
  [(.encLoad, .idle), (.tbBuild, .eLoaded), (.ctGen, .eTree), (.encEmitDict, .eCodes), (.bpPack, .eDict),
   (.encChunk, .idle), (.encAll, .idle), (.decReadCount, .idle), (.decReadEntries, .dEntries),
   (.decReadMeta, .dMeta), (.buReadPayload, .dPayload), (.decDecode, .dDecode), (.decChunk, .idle),
   (.decAll, .idle)]

/-- R113, column "next phase on completion", with E_LOADED and D_ENTRIES replaced by IDLE at the end of input. -/
def nextPhaseRows : List (Instr × Phase) :=
  [(.clear, .idle), (.encLoad, .eLoaded), (.encLoad, .idle), (.tbBuild, .eTree), (.ctGen, .eCodes),
   (.encEmitDict, .eDict), (.bpPack, .idle), (.encChunk, .idle), (.encAll, .idle),
   (.decReadCount, .dEntries), (.decReadCount, .idle), (.decReadEntries, .dMeta), (.decReadMeta, .dPayload),
   (.buReadPayload, .dDecode), (.decDecode, .idle), (.decChunk, .idle), (.decAll, .idle)]

/-- The composite commands (R151). -/
def isComposite (i : Instr) : Bool := i = .encChunk || i = .encAll || i = .decChunk || i = .decAll

/-! ### Steps -/

/-- The step from `s` is the engine's, which finds the block in the state `u`: the host has no move left, leaves its
turn to the engine, writes IRQ_STATUS on the engine's step, or has a move that cannot be made yet and that
stays (spec/60_exceptions.md R315; log 4, 8, 14). -/
def GivesTurn (s u : State) : Prop :=
  (s.host = [] ∧ u = s) ∨
  (∃ rest, s.host = .engine :: rest ∧ u = { s with host := rest }) ∨
  (∃ v rest, s.host = .ackSameStep v :: rest ∧ u = writeCsr 0x0018#16 v { s with host := rest }) ∨
  (∃ m rest, s.host = m :: rest ∧ m.ready s = false ∧ u = s)

/-! ### The part of a command that fails -/

/-- The phase that a Body runs in (R113, column "allowed phase"). -/
def Body.phase : Body → Phase
  | .load => .idle
  | .dict => .eCodes
  | .pack => .eDict
  | .count => .idle
  | .entries => .dEntries
  | .lengths => .dMeta
  | .payload => .dPayload
  | .decode => .dDecode

/-- The phase of the part that raises error `c`, in a step from `s` (spec/60_exceptions.md R300, column "raised by";
spec/41_encoder.md R180, spec/44_decoder.md R258): TRUNCATED is raised by the part whose InPop returned EOF. -/
def failingPhase (c : ErrCode) (s : State) : Phase :=
  match c with
  | .illegalCmd => s.phase
  | .sequence => s.phase
  | .codeTooLong => .eTree
  | .truncated =>
    match s.point with
    | .start => s.phase
    | .popped site _ => site.body.phase
    | .pushed site _ => site.body.phase
  | .dupCodeword => .dEntries
  | .badCodeLen => .dEntries
  | .dictTooLarge => .idle
  | .bitlenExceeds => .dMeta
  | .payloadTooLarge => .dMeta
  | .unmatchedBits => .dDecode
  | .outputTooLarge => .dDecode

/-! ### Trees (spec/42_tree_builder.md R205) -/

/-- The sum of the frequencies of the leaves below a node. -/
def Tree.leafSum : Tree → Nat
  | .leaf _ f _ => f
  | .single c _ _ => c.leafSum
  | .node l r _ _ => l.leafSum + r.leafSum

/-- Every node's freq is the sum of the freqs of the leaves below it. -/
def Tree.SumsOk : Tree → Prop
  | .leaf _ _ _ => True
  | .single c f _ => c.SumsOk ∧ f = c.leafSum
  | .node l r f _ => l.SumsOk ∧ r.SumsOk ∧ f = l.leafSum + r.leafSum

/-- The number of nodes. -/
def Tree.nodes : Tree → Nat
  | .leaf _ _ _ => 1
  | .single c _ _ => c.nodes + 1
  | .node l r _ _ => l.nodes + r.nodes + 1

/-- The number of merges that made the tree. -/
def Tree.merges : Tree → Nat
  | .leaf _ _ _ => 0
  | .single c _ _ => c.merges
  | .node l r _ _ => l.merges + r.merges + 1

/-! ### Greedy decoding (spec/44_decoder.md R251) -/

/-- The inverse dictionary as a mapping from codewords to symbols (spec/10_state.md R54). -/
def State.inverseDict (s : State) (c : Bits) : Option Byte :=
  ((List.range s.dictCount.toNat).find? fun i =>
    decide (bitsOf (Table.entry s.dictLen i).toNat (Table.entry s.dictVal i) = c)).map (Table.entry s.dictSym)

/-- The payload bit string (spec/45_bitstream_unpacker.md R291). -/
def State.payloadString (s : State) : Bits :=
  (List.range s.bitLen.toNat).map fun j => byteBit (s.bufByte .payload (j / 8)) j

/-- "Scan the bit string left to right, accumulating bits into a candidate codeword; whenever the candidate
matches an entry in the inverse dictionary, emit the corresponding symbol byte and reset the candidate to
empty" (R251): the bytes emitted, and whether the candidate is empty at the end. -/
def greedy (dict : Bits → Option Byte) : (cand rest : Bits) → List Byte × Bool
  | cand, [] => ([], cand.isEmpty)
  | cand, b :: rest =>
    match dict (cand ++ [b]) with
    | some sym => (sym :: (greedy dict [] rest).1, (greedy dict [] rest).2)
    | none => greedy dict (cand ++ [b]) rest

/-! ### Records (spec/30_encoding.md R120 to R123) -/

/-- The frequency table of a chunk (R160). -/
def freqOf (chunk : List Byte) : Table Word :=
  chunk.foldl (fun t b => Table.put t b.toNat (Table.entry t b.toNat + 1)) (Table.zero 32)

/-- The leaves of a chunk's tree with their paths (R171, R200). -/
def leavesOfChunk (chunk : List Byte) : List (Byte × Bits) := leavesOf (buildQueue (freqOf chunk)).head?

/-- No leaf is deeper than 32: the chunk has a record (R170). -/
def HasRecord (chunk : List Byte) : Prop := ∀ l ∈ leavesOfChunk chunk, l.2.length ≤ 32

/-- The bit string of a chunk: the paths of its symbols' leaves, in the chunk's order (R171, R221). -/
def bitsOfChunk (chunk : List Byte) : Bits :=
  chunk.flatMap fun b => ((leavesOfChunk chunk).lookup b).getD []

/-- `P` is the packing of the bit string `B` as the encoder makes it (R123): bit 7 − (j mod 8) of `P[j div 8]`
is `B[j]`, and the bits from `len(B)` on are 0. -/
def Packed (B : Bits) (P : List Byte) : Prop :=
  P.length = ceil8 B.length ∧ ∀ j, j < 8 * P.length → byteBit (P.getD (j / 8) 0#8) j = B.getD j false

/-- The dictionary entry of symbol `sym` with codeword `c` (R121, R122). -/
def entryBytes (sym : Nat) (c : Bits) : List Byte :=
  BitVec.ofNat 8 sym :: BitVec.ofNat 8 c.length :: be32 (BitVec.ofNat 32 (bitsVal c))

/-- `r` is the record of the chunk in the layout of R120, with its entries in ascending symbol order (R175). -/
def IsRecord (chunk : List Byte) (r : List Byte) : Prop :=
  ∃ P, Packed (bitsOfChunk chunk) P ∧
    r = be32 (BitVec.ofNat 32 (present (freqOf chunk)).length) ++
      ((present (freqOf chunk)).flatMap fun sym =>
        entryBytes sym (((leavesOfChunk chunk).lookup (BitVec.ofNat 8 sym)).getD [])) ++
      be32 (BitVec.ofNat 32 (bitsOfChunk chunk).length) ++
      be32 (BitVec.ofNat 32 P.length) ++ P

/-- The partition of an input into chunks of `cs` bytes, the last one shorter where the input ends (R162). -/
def chunksOf (cs : Nat) : (turns : Nat) → List Byte → List (List Byte)
  | 0, _ => []
  | turns + 1, x => if x.isEmpty then [] else x.take cs :: chunksOf cs turns (x.drop cs)

/-- Two states alike but for the FIFO depths of the instance. -/
def State.withDepths (inDepth outDepth : Nat) (s : State) : State :=
  { s with cfg := { s.cfg with inDepth := inDepth, outDepth := outDepth } }

end Sys2Proof.Machine
end

