-- ==== Sys2Proof/Certificates/Slice0/Obligations.lean ====
section
/-! DEFINITION. The statements about the block, for the provers. Each docstring names the rule of spec/ that
the statement formalises. `exec i s` is one engine step of command `i` (spec/40_control.md R153), so a
command of several stream operations has a statement for its first step, for the steps between, and for the
step that completes it; the statements about whole runs use `Host.Core.run`. -/

open Sys2Proof Sys2Proof.Machine

/-! ## Command words -/

/-- R111: words of the table, as R111 writes them, decode to the commands they stand for. -/
def Obligations.SampleWordsDecode : Prop :=
  decode 0x00000000#32 = .ok .nop ∧ decode 0x00000001#32 = .ok .clear ∧
    decode 0x00000010#32 = .ok .encLoad ∧ decode 0x00000014#32 = .ok .bpPack ∧
    decode 0x00000019#32 = .ok .encAll ∧ decode 0x00000023#32 = .ok .buReadPayload ∧
    decode 0x00000029#32 = .ok .decAll ∧ decode 0x00000100#32 = .error .reservedBits ∧
    decode 0x00000002#32 = .error (.reservedOpcode 0x02#8)

/-- Decoding an encoded command gives it back, through both entry points of the decoder. -/
def Obligations.DecodeUndoesEncode : Prop :=
  ∀ i : Instr, i.wellFormed = true →
    decode (encode i) = .ok i ∧ decodeTableWord 32 (encode i).toNat = some i

/-- R112: a word is illegal exactly when bits 31:8 are not all 0 or its opcode is reserved; every other word is
the word of one command; an accepted illegal word raises ILLEGAL_CMD with ERR_INFO.OPCODE = bits 7:0. -/
def Obligations.EveryWordIsACommandOrIllegal : Prop :=
  (∀ w : Word, (reservedOf w ≠ 0#24 ∨ ReservedOpcode (opcodeOf w)) ↔ ∃ e, decode w = .error e) ∧
  (∀ (w : Word) (i : Instr), decode w = .ok i ↔ w = encode i) ∧
  ∀ (s : State) (w : Word), (reservedOf w ≠ 0#24 ∨ ReservedOpcode (opcodeOf w)) →
    s.run = some { word := w, point := .start } → s.inReset = false → s.host = [] →
    step s = .next { s with
      errCode := 0x01#8, errInfo := s.phase.code ++ w.extractLsb' 0 8, phase := .error, run := none,
      irqStatus := s.irqStatus ||| 0b10#2, tree := none, queue := [], cand := none }

/-! ## Steps -/

/-- R150, R153, R315, R112, R351: where the host leaves the step to the engine, in any of the ways of `GivesTurn`, the
step is `exec` of the command whose word was accepted, the ILLEGAL_CMD error entry of an accepted illegal word,
and nothing at all in an idle block or while `rst_n` is asserted; any other host move is the whole step (the host
as a list of moves, a waiting move, the empty step and `ackSameStep`: log 4, 7, 8, 14). -/
def Obligations.EveryStepIsAHostActionOrAnEngineStep : Prop :=
  (∀ s u : State, GivesTurn s u →
    (∀ r i, u.run = some r → decode r.word = .ok i → u.inReset = false → step s = exec i u) ∧
    (∀ r e, u.run = some r → decode r.word = .error e → u.inReset = false → step s = .next { u with
      errCode := 0x01#8, errInfo := u.phase.code ++ r.word.extractLsb' 0 8, phase := .error, run := none,
      irqStatus := u.irqStatus ||| 0b10#2, tree := none, queue := [], cand := none }) ∧
    (u.run = none → step s = .next u) ∧
    (u.inReset = true → step s = .next u)) ∧
  (∀ (s : State) (m : Move) (rest : List Move), s.host = m :: rest → m.ready s = true →
    m.leavesEngine = false → step s = .next (m.act { s with host := rest })) ∧
  (∀ s : State, (∃ u, GivesTurn s u) ∨
    ∃ m rest, s.host = m :: rest ∧ m.ready s = true ∧ m.leavesEngine = false)

/-- The state the host is given for a table word: its next step is the first engine step of the command
(the model's placement of a program: log 5). -/
def Obligations.FetchWordRunsNext : Prop :=
  ∀ (s : State) (i : Instr),
    step (s.withFetchWord 32 (encode i).toNat) =
      exec i { s with run := some { word := encode i, point := .start }, inReset := false }

/-- R150 (acceptance): a write to CMD is dropped while BUSY = 1, and in PHASE = ERROR unless it is NOP or CLEAR,
with no effect but CMD_DROP; else the word is accepted and nothing else changes (but the model's counter of free
values, log 9). -/
def Obligations.CommandWriteIsAcceptedOrDropped : Prop :=
  ∀ (s : State) (w : Word), s.inReset = false →
    (s.busy = true → writeCsr 0x0004#16 w s = { s with cmdDrop := true }) ∧
    (s.busy = false → s.phase = .error → w ≠ encode .nop → w ≠ encode .clear →
      writeCsr 0x0004#16 w s = { s with cmdDrop := true }) ∧
    (s.busy = false → (s.phase = .error → w = encode .nop ∨ w = encode .clear) →
      writeCsr 0x0004#16 w s = { s with run := some { word := w, point := .start }, free := s.free + 1 })

/-- R113: a command in a phase other than its own is not executed: SEQUENCE is raised, before anything else the
command does; NOP and CLEAR run in any phase. -/
def Obligations.WrongPhaseRaisesSequence : Prop :=
  (∀ (i : Instr) (p : Phase) (s : State), (i, p) ∈ phaseRows → AtStart i s → s.phase ≠ p →
    exec i s = .next { s with
      errCode := 0x02#8, errInfo := s.phase.code ++ (encode i).extractLsb' 0 8, phase := .error,
      run := none, irqStatus := s.irqStatus ||| 0b10#2, tree := none, queue := [], cand := none }) ∧
  ∀ (i : Instr) (s : State), i = .nop ∨ i = .clear → AtStart i s →
    ∃ t, exec i s = .next t ∧ t.run = none ∧ t.irqStatus.getLsbD 0 = true

/-- R113: the phase that a command leaves when it completes without an error: the one of its row, IDLE for ENC_LOAD
only when no byte was loaded and for DEC_READ_COUNT only at the end of input; NOP leaves the phase. -/
def Obligations.CompletionLeavesTheNextPhase : Prop :=
  ∀ (i : Instr) (s t : State), Inv s → s.run = some { word := encode i, point := s.point } →
    exec i s = .next t → t.run = none → t.phase ≠ .error →
    (i = .nop → t.phase = s.phase) ∧ (i ≠ .nop → (i, t.phase) ∈ nextPhaseRows) ∧
    (i = .encLoad → t.phase = .idle → t.curLen = 0#32 ∧ t.endFlag = true) ∧
    (i = .decReadCount → t.phase = .idle → t.endFlag = true)

/-! ## Registers -/

/-- R55: unmapped reads give 0 and unmapped writes are ignored; writes to read-only registers are ignored;
reserved bits read 0 and ignore writes; a read changes no state of the block, and while BUSY = 0 nothing at all.
CMD and CTRL read 0 (R37, R38). That they and unmapped addresses read 0 also while BUSY = 1 is the model's
reading of U15 against R53 (log 18); that reserved bits read 0 in a value that is free while BUSY = 1, and the
counter that such a read advances, are the model's choice (log 9). -/
def Obligations.UnmappedReservedAndReadOnlyAccess : Prop :=
  (∀ (a : Addr) (s : State), csrAt a = .unmapped → (readCsr a s).1 = 0#32 ∧ (readCsr a s).2 = s) ∧
  (∀ (a : Addr) (v : Word) (s : State), csrAt a ≠ .cmd → csrAt a ≠ .ctrl → csrAt a ≠ .chunkSize →
    csrAt a ≠ .irqEn → csrAt a ≠ .irqStatus → writeCsr a v s = s) ∧
  (∀ (a : Addr) (v : Word) (s : State), writeCsr a v s = { s with
    run := (writeCsr a v s).run, cmdDrop := (writeCsr a v s).cmdDrop, inClosed := (writeCsr a v s).inClosed,
    chunkSize := (writeCsr a v s).chunkSize, irqEn := (writeCsr a v s).irqEn,
    irqStatus := (writeCsr a v s).irqStatus, free := (writeCsr a v s).free }) ∧
  (∀ (a : Addr) (s : State), (readCsr a s).2 = { s with free := (readCsr a s).2.free } ∧
    (s.busy = false → (readCsr a s).2 = s)) ∧
  (∀ s : State,
    (readCsr 0x0014#16 s).1 >>> 2 = 0#32 ∧ (readCsr 0x0018#16 s).1 >>> 2 = 0#32 ∧
    (readCsr 0x001C#16 s).1 >>> 8 = 0#32 ∧ (readCsr 0x0020#16 s).1 >>> 12 = 0#32 ∧
    (readCsr 0x0008#16 s).1 >>> 12 = 0#32 ∧ (readCsr 0x0008#16 s).1.getLsbD 7 = false ∧
    (readCsr 0x0004#16 s).1 = 0#32 ∧ (readCsr 0x000C#16 s).1 = 0#32) ∧
  (∀ (a : Addr) (s : State) (i : Nat), csrAt a = .codeLen i → (readCsr a s).1 >>> 6 = 0#32) ∧
  (∀ (a : Addr) (s : State) (i : Nat), csrAt a = .dictSymLen i → (readCsr a s).1 >>> 14 = 0#32) ∧
  (∀ (v : Word) (s : State), writeCsr 0x0014#16 v s = writeCsr 0x0014#16 (v &&& 3#32) s ∧
    writeCsr 0x0018#16 v s = writeCsr 0x0018#16 (v &&& 3#32) s ∧
    writeCsr 0x000C#16 v s = writeCsr 0x000C#16 (v &&& 1#32) s)

/-- R35: the fields of STATUS while BUSY = 0, each at its bit, and the reserved bits. -/
def Obligations.StatusFieldsReadExactly : Prop :=
  ∀ s : State, s.busy = false → ∃ v : Word, readCsr 0x0008#16 s = (v, s) ∧
    v.getLsbD 0 = false ∧ v.getLsbD 1 = decide (s.phase = .error) ∧ v.getLsbD 2 = s.endFlag ∧
    v.getLsbD 3 = s.inClosed ∧ v.getLsbD 4 = s.inFifo.isEmpty ∧ v.getLsbD 5 = s.outFifo.isEmpty ∧
    v.getLsbD 6 = s.cmdDrop ∧ v.getLsbD 7 = false ∧ v.extractLsb' 8 4 = s.phase.code ∧
    v.extractLsb' 12 20 = 0#20

/-- R53: while BUSY = 1, STATUS reads exactly but for PHASE, which reads as one of the phases the command passes
through (the model's list of them, log 10; for a command about to raise SEQUENCE, only the present phase), and ID, CHUNK_SIZE, IRQ_EN, IRQ_STATUS, ERR_CODE, IN_COUNT, OUT_COUNT and
MAX_CHUNK read their exact values. -/
def Obligations.ReadsWhileBusy : Prop :=
  ∀ s : State, s.busy = true →
    (∃ p ∈ shownPhases s, (readCsr 0x0008#16 s).1 = statusWord p s ∧
      (statusWord p s).getLsbD 0 = true ∧ (statusWord p s).getLsbD 1 = decide (s.phase = .error) ∧
      (statusWord p s).getLsbD 2 = s.endFlag ∧ (statusWord p s).getLsbD 3 = s.inClosed ∧
      (statusWord p s).getLsbD 4 = s.inFifo.isEmpty ∧ (statusWord p s).getLsbD 5 = s.outFifo.isEmpty ∧
      (statusWord p s).getLsbD 6 = s.cmdDrop) ∧
    (∀ i p, s.run = some { word := encode i, point := .start } → (i, p) ∈ phaseRows → s.phase ≠ p →
      (readCsr 0x0008#16 s).1 = statusWord s.phase s) ∧
    readCsr 0x0000#16 s = (0x48554646#32, s) ∧
    readCsr 0x0010#16 s = (s.chunkSize, s) ∧
    readCsr 0x0014#16 s = (s.irqEn.setWidth 32, s) ∧
    readCsr 0x0018#16 s = (s.irqStatus.setWidth 32, s) ∧
    readCsr 0x001C#16 s = (s.errCode.setWidth 32, s) ∧
    readCsr 0x0028#16 s = (s.inCount, s) ∧
    readCsr 0x002C#16 s = (s.outCount, s) ∧
    readCsr 0x0040#16 s = (BitVec.ofNat 32 s.cfg.maxChunk, s)

/-- R30, R92, R34, R39 to R54: while BUSY = 0 ID, MAX_CHUNK, CHUNK_SIZE, IRQ_EN, IRQ_STATUS, IN_COUNT, OUT_COUNT, the
result registers, and the table entries that hold specified values, read exactly at their addresses, whatever address bits 1:0 are. Which entries hold specified values after CLEAR is the
model's choice (log 11). -/
def Obligations.ResultRegistersAndTablesReadExactly : Prop :=
  (∀ (s : State) (lo : Nat), s.busy = false → lo < 4 →
      readCsr (BitVec.ofNat 16 lo) s = (0x48554646#32, s) ∧
      readCsr (BitVec.ofNat 16 (0x0010 + lo)) s = (s.chunkSize, s) ∧
      readCsr (BitVec.ofNat 16 (0x0014 + lo)) s = (s.irqEn.setWidth 32, s) ∧
      readCsr (BitVec.ofNat 16 (0x0018 + lo)) s = (s.irqStatus.setWidth 32, s) ∧
      readCsr (BitVec.ofNat 16 (0x0028 + lo)) s = (s.inCount, s) ∧
      readCsr (BitVec.ofNat 16 (0x002C + lo)) s = (s.outCount, s) ∧
      readCsr (BitVec.ofNat 16 (0x0040 + lo)) s = (BitVec.ofNat 32 s.cfg.maxChunk, s) ∧
      readCsr (BitVec.ofNat 16 (0x001C + lo)) s = (s.errCode.setWidth 32, s) ∧
      readCsr (BitVec.ofNat 16 (0x0020 + lo)) s = (s.errInfo.setWidth 32, s) ∧
      readCsr (BitVec.ofNat 16 (0x0024 + lo)) s = (s.chunkCount, s) ∧
      readCsr (BitVec.ofNat 16 (0x0030 + lo)) s = (s.curLen, s) ∧
      readCsr (BitVec.ofNat 16 (0x0034 + lo)) s = (s.dictCount, s) ∧
      readCsr (BitVec.ofNat 16 (0x0038 + lo)) s = (s.bitLen, s) ∧
      readCsr (BitVec.ofNat 16 (0x003C + lo)) s = (s.byteLen, s)) ∧
  (∀ (s : State) (i lo : Nat), s.busy = false → i < 256 → lo < 4 →
      (s.freqSpec = true →
        readCsr (BitVec.ofNat 16 (0x0400 + 4 * i + lo)) s = (Table.entry s.freq i, s)) ∧
      (s.codeSpec = true →
        readCsr (BitVec.ofNat 16 (0x0800 + 4 * i + lo)) s = (Table.entry s.codeVal i, s) ∧
        readCsr (BitVec.ofNat 16 (0x0C00 + 4 * i + lo)) s = ((Table.entry s.codeLen i).setWidth 32, s)) ∧
      (i < s.dictSpec → i < s.dictCount.toNat →
        (∃ v : Word, readCsr (BitVec.ofNat 16 (0x1000 + 4 * i + lo)) s = (v, s) ∧
          v.extractLsb' 0 8 = Table.entry s.dictSym i ∧ v.extractLsb' 8 6 = Table.entry s.dictLen i ∧
          v.extractLsb' 14 18 = 0#18) ∧
        readCsr (BitVec.ofNat 16 (0x1400 + 4 * i + lo)) s = (Table.entry s.dictVal i, s)))

/-- R39: CHUNK_SIZE is write-any-read-legal, ignores writes while BUSY = 1, resets to MAX_CHUNK, and is the
chunk size the next ENC_LOAD uses. -/
def Obligations.ChunkSizeRegister : Prop :=
  (∀ (s : State) (v : Word), s.inReset = false → s.busy = false → 1 ≤ v.toNat →
    v.toNat ≤ s.cfg.maxChunk → writeCsr 0x0010#16 v s = { s with chunkSize := v }) ∧
  (∀ (s : State) (v : Word), v.toNat < 1 ∨ s.cfg.maxChunk < v.toNat → writeCsr 0x0010#16 v s = s) ∧
  (∀ (s : State) (v : Word), s.busy = true → writeCsr 0x0010#16 v s = s) ∧
  (∀ c : Params, (State.resetOf c).chunkSize = BitVec.ofNat 32 c.maxChunk) ∧
  (∀ s : State, readCsr 0x0010#16 s = (s.chunkSize, s)) ∧
  (∀ (s : State) (b : Byte) (rest : List Byte), AtStart .encLoad s → s.phase = .idle →
    1 ≤ s.chunkSize.toNat → s.inFifo = b :: rest → ∃ t, exec .encLoad s = .next t ∧
      AtPoint .encLoad (.popped (.load s.chunkSize.toNat 0) (some b)) t)

/-- R40, R38: IRQ_EN holds the two enables, is writable at any time, and resets to 0. CTRL: bit 0 written 1 closes the
input stream, written 0 does nothing, whether or not BUSY = 1; bits 31:1 are ignored; it reads 0, also while BUSY = 1
(the model's reading of U15 against R53, log 18). -/
def Obligations.IrqEnAndCtrlRegisters : Prop :=
  (∀ (s : State) (v : Word), s.inReset = false →
    writeCsr 0x0014#16 v s = { s with irqEn := v.extractLsb' 0 2 }) ∧
  (∀ s : State, readCsr 0x0014#16 s = (0#30 ++ s.irqEn, s)) ∧
  (∀ c : Params, (State.resetOf c).irqEn = 0#2) ∧
  (∀ (s : State) (v : Word), s.inReset = false → v.getLsbD 0 = true →
    writeCsr 0x000C#16 v s = { s with inClosed := true }) ∧
  (∀ (s : State) (v : Word), v.getLsbD 0 = false → writeCsr 0x000C#16 v s = s) ∧
  (∀ s : State, readCsr 0x000C#16 s = (0#32, s))

/-- R41, R320: IRQ_STATUS: DONE is set by a completion without error, ERR by entering ERROR, a written 1 clears its bit
and a written 0 leaves it, reserved bits read 0, a set event wins over a clearing write on the same step, and
the reset value is 0 (the same-step write is the host move `ackSameStep`, log 14). The interrupt line, and how the
host lowers it. -/
def Obligations.IrqStatusRegisterAndLine : Prop :=
  (∀ (s : State) (v : Word) (k : Nat), s.inReset = false → k < 2 →
    (writeCsr 0x0018#16 v s).irqStatus.getLsbD k = (s.irqStatus.getLsbD k && !v.getLsbD k)) ∧
  (∀ (s : State) (v : Word), writeCsr 0x0018#16 v s =
    { s with irqStatus := (writeCsr 0x0018#16 v s).irqStatus }) ∧
  (∀ s : State, readCsr 0x0018#16 s = (0#30 ++ s.irqStatus, s)) ∧
  (∀ (i : Instr) (s t : State), exec i s = .next t → t.run = none →
    (t.phase = .error ∧ t.irqStatus = s.irqStatus ||| 0b10#2) ∨
    (i ≠ .clear ∧ t.irqStatus = s.irqStatus ||| 0b01#2) ∨
    (i = .clear ∧ t.irqStatus.getLsbD 0 = true)) ∧
  (∀ (i : Instr) (s t : State), exec i s = .next t → t.run ≠ none → t.irqStatus = s.irqStatus) ∧
  (∀ (i : Instr) (s t : State) (v : Word) (rest : List Move), s.run = some { word := encode i, point := s.point } →
    s.inReset = false → s.host = .ackSameStep v :: rest → step s = .next t → t.run = none →
    (t.phase ≠ .error → t.irqStatus.getLsbD 0 = true) ∧
    (s.phase ≠ .error → t.phase = .error → t.irqStatus.getLsbD 1 = true)) ∧
  (∀ c : Params, (State.resetOf c).irqStatus = 0#2) ∧
  (∀ s : State, s.irq = true ↔
    (s.irqStatus.getLsbD 0 = true ∧ s.irqEn.getLsbD 0 = true) ∨
    (s.irqStatus.getLsbD 1 = true ∧ s.irqEn.getLsbD 1 = true)) ∧
  (∀ s : State, s.inReset = false → (writeCsr 0x0018#16 (s.irqStatus.setWidth 32) s).irq = false) ∧
  (∀ s : State, s.inReset = false → (writeCsr 0x0014#16 0#32 s).irq = false)

/-! ## Streams -/

/-- R87: a transfer on `s_in` completes only when the FIFO has room and the stream is open, whatever BUSY and the
phase are; it appends its byte and, with LAST, closes the stream; a transfer that cannot complete waits (at the head of the host's moves, log 8). -/
def Obligations.InputTransfer : Prop :=
  ∀ (s : State) (b : Byte) (last : Bool) (rest : List Move), s.inReset = false →
    s.host = .send b last :: rest →
    (s.inFifo.length < s.cfg.inDepth → s.inClosed = false →
      step s = .next { s with inFifo := s.inFifo ++ [b], inClosed := last, host := rest }) ∧
    (s.cfg.inDepth ≤ s.inFifo.length ∨ s.inClosed = true →
      step s = engineTurn s ∧ ∀ t, step s = .next t → t.host = s.host)

/-- R88: the head byte of the output FIFO is what a host read takes, in any phase and while BUSY = 1; an empty FIFO
offers none. That the byte is recorded in `replies` (log 15), and that a read on an empty FIFO waits at the head of
the host's moves (log 8), are the model's choices. -/
def Obligations.OutputRead : Prop :=
  ∀ (s : State) (rest : List Move), s.inReset = false → s.host = .recv :: rest →
    (∀ b tail, s.outFifo = b :: tail →
      step s = .next { s with outFifo := tail, replies := s.replies ++ [.byte b], host := rest }) ∧
    (s.outFifo = [] → ∀ t, step s = .next t → t.host = s.host ∧ t.replies = s.replies)

/-- R45, R97, R153: an engine step of any command but CLEAR takes at most one byte, from the head of the input
FIFO, or appends at most one, at the tail of the output FIFO, and the counters count exactly those. -/
def Obligations.EngineStepMovesAtMostOneByte : Prop :=
  ∀ (i : Instr) (s t : State), i ≠ .clear → exec i s = .next t →
    (t.inFifo = s.inFifo ∧ t.inCount = s.inCount ∧ t.outFifo = s.outFifo ∧ t.outCount = s.outCount) ∨
    (∃ b, s.inFifo = b :: t.inFifo ∧ t.inCount = s.inCount + 1 ∧ t.outFifo = s.outFifo ∧
      t.outCount = s.outCount) ∨
    (∃ b, t.outFifo = s.outFifo ++ [b] ∧ t.outCount = s.outCount + 1 ∧ s.outFifo.length < s.cfg.outDepth ∧
      t.inFifo = s.inFifo ∧ t.inCount = s.inCount)

/-- R86: with no byte to take, the stream open, and no room for output, an engine step of a running command either
ends the command or is a hold, which changes nothing (a hold answers the same state: log 7). -/
def Obligations.HoldChangesNothing : Prop :=
  ∀ (i : Instr) (s t : State), s.busy = true → s.inFifo = [] → s.inClosed = false →
    s.cfg.outDepth ≤ s.outFifo.length → exec i s = .next t → t = s ∨ t.run = none

/-- R13: no result depends on the FIFO depths: an engine step with room for output gives the same state on an
instance with other depths that also has room. -/
def Obligations.DepthsDoNotMatter : Prop :=
  ∀ (i : Instr) (s : State) (inDepth outDepth : Nat), s.outFifo.length < s.cfg.outDepth →
    s.outFifo.length < outDepth →
    (∀ t, exec i s = .next t →
      exec i (s.withDepths inDepth outDepth) = .next (t.withDepths inDepth outDepth)) ∧
    (∀ f, exec i s = .fault f → exec i (s.withDepths inDepth outDepth) = .fault f)

/-! ## Control commands -/

/-- R154: NOP is accepted and completes without effect but DONE, in every phase; a word with opcode 0 and another bit set is not
NOP, and in PHASE = ERROR it is dropped. -/
def Obligations.NopCompletes : Prop :=
  (∀ s : State, AtStart .nop s →
    exec .nop s = .next { s with run := none, irqStatus := s.irqStatus ||| 0b01#2 }) ∧
  (∀ s : State, s.inReset = false → s.busy = false → writeCsr 0x0004#16 (encode .nop) s =
    { s with run := some { word := encode .nop, point := .start }, free := s.free + 1 }) ∧
  (∀ w : Word, opcodeOf w = 0x00#8 → w ≠ encode .nop → decode w = .error .reservedBits) ∧
  (∀ (s : State) (w : Word), s.inReset = false → s.busy = false → s.phase = .error → opcodeOf w = 0x00#8 →
    w ≠ encode .nop → writeCsr 0x0004#16 w s = { s with cmdDrop := true })

/-- R156: CLEAR is accepted in every phase: the job state is emptied and everything R156 names as unchanged stays; while
BUSY = 1 a CLEAR is dropped. -/
def Obligations.ClearCompletes : Prop :=
  (∀ s : State, AtStart .clear s →
    exec .clear s = .next { s with
      phase := .idle, errCode := 0#8, errInfo := 0#12, endFlag := false, cmdDrop := false,
      inClosed := false, inFifo := [], outFifo := [], chunkCount := 0#32, inCount := 0#32,
      outCount := 0#32, curLen := 0#32, dictCount := 0#32, bitLen := 0#32, byteLen := 0#32,
      tree := none, queue := [], run := none, irqStatus := (s.irqStatus &&& 0b01#2) ||| 0b01#2 }) ∧
  (∀ s : State, s.inReset = false → s.busy = false → writeCsr 0x0004#16 (encode .clear) s =
    { s with run := some { word := encode .clear, point := .start }, free := s.free + 1 }) ∧
  (∀ s : State, s.inReset = false → s.busy = true →
    writeCsr 0x0004#16 (encode .clear) s = { s with cmdDrop := true })

/-! ## Errors -/

/-- R310, R311: what every error entry leaves: the code and the opcode of the accepted word are recorded, BUSY is
0, IRQ_STATUS.ERR is set and DONE is not, the tree is gone, and neither stream moves in that step. For a
command that is not a composite ERR_INFO.PHASE is the phase before; for every command, in a state that has the
invariant, it is the phase of the part that fails (`failingPhase`). -/
def Obligations.ErrorEntryRecords : Prop :=
  ∀ (i : Instr) (s t : State), exec i s = .next t → s.phase ≠ .error → t.phase = .error →
    t.run = none ∧ t.irqStatus = s.irqStatus ||| 0b10#2 ∧
    (∃ c : ErrCode, t.errCode = c.code ∧ t.errCode ≠ 0#8 ∧
      (Inv s → t.errInfo = (failingPhase c s).code ++ ((s.accept i).word).extractLsb' 0 8)) ∧
    (∃ p : Phase, p ≠ .error ∧ t.errInfo = p.code ++ ((s.accept i).word).extractLsb' 0 8 ∧
      (isComposite i = false → p = s.phase)) ∧
    t.tree = none ∧ t.queue = [] ∧ t.cand = none ∧
    t.inFifo = s.inFifo ∧ t.inCount = s.inCount ∧ t.outFifo = s.outFifo ∧ t.outCount = s.outCount ∧
    t.chunkCount = s.chunkCount

/-- R312: the block leaves PHASE = ERROR only by CLEAR or reset, both to IDLE; while it is there only NOP and CLEAR
are accepted and the recorded ERR_CODE and ERR_INFO stay. -/
def Obligations.ErrorIsLeftOnlyByClearOrReset : Prop :=
  (∀ s t : State, Inv s → s.phase = .error → step s = .next t →
    (t.phase = .error ∧ t.errCode = s.errCode ∧ t.errInfo = s.errInfo) ∨
    (t.phase = .idle ∧ t.errCode = 0#8 ∧ t.errInfo = 0#12 ∧
      ((∃ r, s.run = some r ∧ r.word = encode .clear) ∨
        (∃ rest, s.host = .rstAssert :: rest ∨ s.host = .rstRelease :: rest)))) ∧
  (∀ (s : State) (w : Word), s.inReset = false → s.phase = .error → s.busy = false →
    ((writeCsr 0x0004#16 w s).busy = true ↔ w = encode .nop ∨ w = encode .clear))

/-! ## Encoder -/

/-- R160: ENC_LOAD clears FREQ, BIT_LEN and BYTE_LEN and reads CHUNK_SIZE; each byte is stored and counted, and the next
one is taken, or EOF at the end of the input (R84); it completes when the chunk is full, without waiting for the
close, or after EOF, where CUR_LEN,
DICT_COUNT and the phase are set; with no byte END is set and the phase stays IDLE. -/
def Obligations.EncLoadTakesEachByteAndCompletes : Prop :=
  (∀ (s : State) (b : Byte) (rest : List Byte), AtStart .encLoad s → s.phase = .idle →
    1 ≤ s.chunkSize.toNat → s.inFifo = b :: rest →
    exec .encLoad s = .next { s with
      freq := Table.zero 32, freqSpec := true, bitLen := 0#32, byteLen := 0#32,
      inFifo := rest, inCount := s.inCount + 1,
      run := some { word := encode .encLoad
                    point := .popped (.load s.chunkSize.toNat 0) (some b) } }) ∧
  (∀ (s : State) (cs k : Nat) (b c : Byte) (rest : List Byte),
    AtPoint .encLoad (.popped (.load cs k) (some b)) s → k < s.cfg.maxChunk → k + 1 < cs →
    s.inFifo = c :: rest →
    exec .encLoad s = .next { s with
      chunkBuf := Memory.insert s.chunkBuf k b,
      freq := Table.put s.freq b.toNat (Table.entry s.freq b.toNat + 1),
      inFifo := rest, inCount := s.inCount + 1,
      run := some { word := encode .encLoad, point := .popped (.load cs (k + 1)) (some c) } }) ∧
  (∀ s : State, AtStart .encLoad s → s.phase = .idle → 1 ≤ s.chunkSize.toNat → s.inFifo = [] →
    s.inClosed = true →
    exec .encLoad s = .next { s with
      freq := Table.zero 32, freqSpec := true, bitLen := 0#32, byteLen := 0#32,
      run := some { word := encode .encLoad, point := .popped (.load s.chunkSize.toNat 0) none } }) ∧
  (∀ (s : State) (cs k : Nat) (b : Byte),
    AtPoint .encLoad (.popped (.load cs k) (some b)) s → k < s.cfg.maxChunk → k + 1 < cs →
    s.inFifo = [] → s.inClosed = true →
    exec .encLoad s = .next { s with
      chunkBuf := Memory.insert s.chunkBuf k b,
      freq := Table.put s.freq b.toNat (Table.entry s.freq b.toNat + 1),
      run := some { word := encode .encLoad, point := .popped (.load cs (k + 1)) none } }) ∧
  (∀ (s : State) (cs k : Nat) (b : Byte), AtPoint .encLoad (.popped (.load cs k) (some b)) s →
    k < s.cfg.maxChunk → cs ≤ k + 1 →
    exec .encLoad s = .next { s with
      chunkBuf := Memory.insert s.chunkBuf k b,
      freq := Table.put s.freq b.toNat (Table.entry s.freq b.toNat + 1),
      curLen := BitVec.ofNat 32 (k + 1),
      dictCount := BitVec.ofNat 32
        (present (Table.put s.freq b.toNat (Table.entry s.freq b.toNat + 1))).length,
      phase := .eLoaded, run := none, irqStatus := s.irqStatus ||| 0b01#2 }) ∧
  (∀ (s : State) (cs k : Nat), AtPoint .encLoad (.popped (.load cs k) none) s → 1 ≤ k →
    exec .encLoad s = .next { s with
      curLen := BitVec.ofNat 32 k, dictCount := BitVec.ofNat 32 (present s.freq).length,
      phase := .eLoaded, run := none, irqStatus := s.irqStatus ||| 0b01#2 }) ∧
  (∀ (s : State) (cs : Nat), AtPoint .encLoad (.popped (.load cs 0) none) s →
    exec .encLoad s = .next { s with
      curLen := 0#32, dictCount := BitVec.ofNat 32 (present s.freq).length,
      endFlag := true, run := none, irqStatus := s.irqStatus ||| 0b01#2 })

/-- R80, R160, R290: ENC_LOAD stores one byte at index k of CHUNK_BUF and BU_READ_PAYLOAD one at index t of
PAYLOAD_BUF, in a step that is no hold; every other byte of both buffers reads as before (log 3). -/
def Obligations.LoadStepsStoreOneByte : Prop :=
  (∀ (i : Instr) (s t : State) (cs k : Nat) (b : Byte),
    i = .encLoad ∨ i = .encChunk ∨ i = .encAll →
    AtPoint i (.popped (.load cs k) (some b)) s → exec i s = .next t → t ≠ s →
    t.bufByte .chunk k = b ∧ ∀ (c : Buf) (j : Nat), c ≠ .chunk ∨ j ≠ k → t.bufByte c j = s.bufByte c j) ∧
  (∀ (s t : State) (n : Nat) (b : Byte),
    AtPoint .buReadPayload (.popped (.payload n) (some b)) s → exec .buReadPayload s = .next t → t ≠ s →
    t.bufByte .payload n = b ∧
      ∀ (c : Buf) (j : Nat), c ≠ .payload ∨ j ≠ n → t.bufByte c j = s.bufByte c j)

/-- R160, R161: a whole ENC_LOAD, when the chunk's bytes are in the FIFO: after as many steps as it has bytes, and at
most two more, it has completed; CHUNK_BUF holds the chunk, FREQ[b] is the number of times b occurs in it,
DICT_COUNT the number of distinct bytes, and only the chunk's bytes were taken. -/
def Obligations.EncLoadLoadsTheWholeChunk : Prop :=
  ∀ (s : State) (chunk rest : List Byte), AtPoint .encLoad .start s → s.host = [] → s.inReset = false →
    s.phase = .idle → s.cfg.wellFormed = true → s.chunkSize.toNat ≤ s.cfg.maxChunk →
    s.inFifo = chunk ++ rest → chunk ≠ [] →
    (chunk.length = s.chunkSize.toNat ∨
      (chunk.length < s.chunkSize.toNat ∧ rest = [] ∧ s.inClosed = true)) →
    ∃ t : State, Host.Core.run Sys2Proof.core (chunk.length + 2) s = .next t ∧
      t.run = none ∧ t.phase = .eLoaded ∧ t.curLen = BitVec.ofNat 32 chunk.length ∧
      t.inFifo = rest ∧ t.inCount = s.inCount + BitVec.ofNat 32 chunk.length ∧
      (∀ (k : Nat) (h : k < chunk.length), t.bufByte .chunk k = chunk[k]) ∧
      (∀ b : Byte, (Table.entry t.freq b.toNat).toNat = chunk.count b) ∧
      t.dictCount.toNat = chunk.dedup.length ∧ t.bitLen = 0#32 ∧ t.byteLen = 0#32 ∧
      t.outFifo = s.outFifo ∧ t.endFlag = s.endFlag ∧ t.irqStatus.getLsbD 0 = true

/-- R200: TB_BUILD leaves the tree of R200's merge loop; no register changes but PHASE and, by Complete, DONE. -/
def Obligations.TbBuildCompletes : Prop :=
  ∀ s : State, AtStart .tbBuild s → s.phase = .eLoaded →
    exec .tbBuild s = .next { s with
      tree := (buildQueue s.freq).head?, queue := buildQueue s.freq, phase := .eTree,
      run := none, irqStatus := s.irqStatus ||| 0b01#2 }

/-- R202, R203: PopMin removes the node whose pair (freq, key) is least, and leaves the others. A merge takes the two
least nodes; the first popped becomes the right child, the second the left, the frequency is their sum, the key
256 + m, and the node is put back. -/
def Obligations.PopMinAndMerge : Prop :=
  (∀ (x : Tree) (q : List Tree), ((x :: q).map Tree.key).Nodup →
      ((popMin x q).1 :: (popMin x q).2).Perm (x :: q) ∧
      ∀ y ∈ (popMin x q).2, (popMin x q).1.freq < y.freq ∨
        ((popMin x q).1.freq = y.freq ∧ (popMin x q).1.key < y.key)) ∧
  (∀ (turns m : Nat) (a b : Tree) (q : List Tree), ((a :: b :: q).map Tree.key).Nodup →
      ∃ (x y : Tree) (others : List Tree), (x :: y :: others).Perm (a :: b :: q) ∧
        (∀ z ∈ y :: others, x.before z = true) ∧ (∀ z ∈ others, y.before z = true) ∧
        mergeAll (turns + 1) m (a :: b :: q) =
          mergeAll turns (m + 1) (.node y x (x.freq + y.freq) (256 + m) :: others))

/-- R201: one distinct symbol: the leaf is the left child of a root with no right child, the root's key is 256, and
the symbol's codeword is "0". -/
def Obligations.OneSymbolGetsCodewordZero : Prop :=
  ∀ (freq : Table Word) (sym : Nat), present freq = [sym] →
    (buildQueue freq).head? = some (.single
      (.leaf (BitVec.ofNat 8 sym) (Table.entry freq sym).toNat sym) (Table.entry freq sym).toNat 256) ∧
    leavesOf (buildQueue freq).head? = [(BitVec.ofNat 8 sym, [false])]

/-- R205: the tree after TB_BUILD, for the n distinct symbols of the chunk: every freq is the sum of the leaves
below, the root's is CUR_LEN, there are n − 1 merges and 2n − 1 nodes for n ≥ 2, every leaf has depth between 1
and n − 1 (for n = 1, depth 1), and the symbols present are the leaves' symbols, each in one leaf. -/
def Obligations.TreeOfTheChunk : Prop :=
  ∀ s t : State, Conserved s → s.phase = .eLoaded → AtStart .tbBuild s → exec .tbBuild s = .next t →
    ∃ root : Tree, t.tree = some root ∧ root.SumsOk ∧ root.freq = s.curLen.toNat ∧
      ((root.paths []).map fun l => l.1.toNat).Perm (present s.freq) ∧
      (2 ≤ (present s.freq).length →
        root.merges = (present s.freq).length - 1 ∧ root.nodes = 2 * (present s.freq).length - 1) ∧
      ∀ l ∈ root.paths [], 1 ≤ l.2.length ∧
        (l.2.length ≤ (present s.freq).length - 1 ∨ ((present s.freq).length = 1 ∧ l.2.length = 1))

/-- R170, R171, R52: CT_GEN with every leaf at depth 32 or less: the CODE tables are the leaves' path lengths and values,
BIT_LEN and BYTE_LEN follow, the tree is discarded, and the phase is E_CODES; for a symbol with a leaf the tables hold
the length and the value of its path, for any other 0. -/
def Obligations.CtGenCompletesWithThePathsOfTheLeaves : Prop :=
  (∀ s : State, AtStart .ctGen s → s.phase = .eTree → (∀ l ∈ leavesOf s.tree, l.2.length ≤ 32) →
      exec .ctGen s = .next { s with
        codeLen := codeLenOf (leavesOf s.tree), codeVal := codeValOf (leavesOf s.tree), codeSpec := true,
        bitLen := BitVec.ofNat 32 (payloadBits s.freq (codeLenOf (leavesOf s.tree))),
        byteLen := BitVec.ofNat 32
          (ceil8 (BitVec.ofNat 32 (payloadBits s.freq (codeLenOf (leavesOf s.tree)))).toNat),
        tree := none, queue := [], phase := .eCodes, run := none, irqStatus := s.irqStatus ||| 0b01#2 }) ∧
  (∀ s t : State, AtStart .ctGen s → s.phase = .eTree → exec .ctGen s = .next t → t.phase = .eCodes →
      ((leavesOf s.tree).map Prod.fst).Nodup →
      (∀ l ∈ leavesOf s.tree, (Table.entry t.codeLen l.1.toNat).toNat = l.2.length ∧
        (Table.entry t.codeVal l.1.toNat).toNat = bitsVal l.2 ∧
        codewordOf t.codeLen t.codeVal l.1 = l.2) ∧
      (∀ b : Byte, b ∉ (leavesOf s.tree).map Prod.fst →
        Table.entry t.codeLen b.toNat = 0#6 ∧ Table.entry t.codeVal b.toNat = 0#32))

/-- R170: CODE_TOO_LONG is raised exactly when a leaf lies deeper than 32, with ERR_INFO.PHASE = E_TREE, and nothing
is put on the output stream. That the stored CODE fields stay and are marked unspecified is the model's choice
(R52 and U5 leave them open, log 12). -/
def Obligations.CtGenCodeTooLong : Prop :=
  (∀ s : State, AtStart .ctGen s → s.phase = .eTree → (∃ l ∈ leavesOf s.tree, 32 < l.2.length) →
    exec .ctGen s = .next { s with
      errCode := 0x03#8, errInfo := 0x212#12, phase := .error, codeSpec := false,
      run := none, irqStatus := s.irqStatus ||| 0b10#2, tree := none, queue := [], cand := none }) ∧
  (∀ s t : State, AtStart .ctGen s → s.phase = .eTree → exec .ctGen s = .next t → t.errCode = 0x03#8 →
    s.errCode ≠ 0x03#8 → ∃ l ∈ leavesOf s.tree, 32 < l.2.length)

/-- R172: the codewords CT_GEN leaves in the CODE tables are prefix-free: for two different symbols with a
codeword, neither codeword is a prefix of the other. -/
def Obligations.CodeTableIsPrefixFree : Prop :=
  ∀ s t : State, AtStart .ctGen s → s.phase = .eTree → exec .ctGen s = .next t → t.phase = .eCodes →
    ((leavesOf s.tree).map Prod.fst).Nodup →
    ∀ a b : Byte, a ≠ b → Table.entry t.codeLen a.toNat ≠ 0#6 → Table.entry t.codeLen b.toNat ≠ 0#6 →
      ¬ codewordOf t.codeLen t.codeVal a <+: codewordOf t.codeLen t.codeVal b

/-- R173: the payload bit length CT_GEN computes is the length of the concatenation of the codewords of the chunk,
for any code table and the chunk's own frequencies. -/
def Obligations.BitLenIsTheLengthOfTheCodewords : Prop :=
  ∀ (chunk : List Byte) (codeLen : Table (BitVec 6)) (codeVal : Table Word), chunk.length < 2 ^ 32 →
    payloadBits (freqOf chunk) codeLen = (chunk.flatMap (codewordOf codeLen codeVal)).length

/-- R175, R220, R250: the steps of the commands that push bytes: at a position with bytes still to push, one step
appends the next of them and nothing else changes; with no room the step is a hold. -/
def Obligations.PushingStepsAppendInOrder : Prop :=
  ∀ (i : Instr) (site : PushSite) (b : Byte) (rest : List Byte) (s : State),
    hasBody i site.body = true → AtPoint i (.pushed site (b :: rest)) s →
    (s.outFifo.length < s.cfg.outDepth → exec i s = .next { s with
      outFifo := s.outFifo ++ [b], outCount := s.outCount + 1,
      run := some { word := encode i, point := .pushed site rest } }) ∧
    (s.cfg.outDepth ≤ s.outFifo.length → exec i s = .next s)

/-- R175: ENC_EMIT_DICT's first step pushes the first byte of DICT_COUNT, its last one leaves it in E_DICT, and in between
`PushingStepsAppendInOrder` holds. A whole ENC_EMIT_DICT with room on the output: it has pushed the count, and for every
symbol present, in ascending order, the symbol, the codeword's length and its value, most significant byte first. -/
def Obligations.EncEmitDictEmitsAndCompletes : Prop :=
  ((∀ s : State, AtStart .encEmitDict s → s.phase = .eCodes → s.outFifo.length < s.cfg.outDepth →
      ∃ first others, first :: others = dictBytes s ∧
        (dictBytes s).length = 4 + 6 * (present s.freq).length ∧
        exec .encEmitDict s = .next { s with
          outFifo := s.outFifo ++ [first], outCount := s.outCount + 1,
          run := some { word := encode .encEmitDict, point := .pushed .dict others } }) ∧
    (∀ s : State, AtPoint .encEmitDict (.pushed .dict []) s →
      exec .encEmitDict s = .next { s with
        phase := .eDict, run := none, irqStatus := s.irqStatus ||| 0b01#2 })) ∧
  (∀ s : State, AtPoint .encEmitDict .start s → s.host = [] → s.inReset = false → s.phase = .eCodes →
      s.outFifo.length + 4 + 6 * (present s.freq).length ≤ s.cfg.outDepth →
      Host.Core.run Sys2Proof.core (4 + 6 * (present s.freq).length + 1) s = .next { s with
        phase := .eDict, run := none, irqStatus := s.irqStatus ||| 0b01#2,
        outCount := s.outCount + BitVec.ofNat 32 (4 + 6 * (present s.freq).length),
        outFifo := s.outFifo ++ (be32 s.dictCount ++ (present s.freq).flatMap fun sym =>
          [BitVec.ofNat 8 sym, (Table.entry s.codeLen sym).setWidth 8,
            (Table.entry s.codeVal sym).extractLsb' 24 8, (Table.entry s.codeVal sym).extractLsb' 16 8,
            (Table.entry s.codeVal sym).extractLsb' 8 8, (Table.entry s.codeVal sym).extractLsb' 0 8]) })

/-- R123, R220, R221: the payload bytes of R220's loop are the packing of the concatenated codewords. -/
def Obligations.PayloadIsThePackingOfTheCodewords : Prop :=
  ∀ (codeLen : Table (BitVec 6)) (codeVal : Table Word) (chunk : List Byte),
    Packed (chunk.flatMap (codewordOf codeLen codeVal)) (packPayload codeLen codeVal chunk)

/-- R220, R221: BP_PACK's last step: CHUNK_COUNT rises by 1, the phase is IDLE, and nothing else changes. A whole BP_PACK
with room on the output pushes BIT_LEN, BYTE_LEN and the packing of the codewords of CHUNK_BUF[0..CUR_LEN−1], and
leaves everything else but CHUNK_COUNT, PHASE, OUT_COUNT and DONE. -/
def Obligations.BpPackEmitsThePayloadAndCompletes : Prop :=
  (∀ s : State, AtPoint .bpPack (.pushed .pack []) s →
      exec .bpPack s = .next { s with
        chunkCount := s.chunkCount + 1, phase := .idle, run := none,
        irqStatus := s.irqStatus ||| 0b01#2 }) ∧
  (∀ (s : State) (chunk : List Byte), AtPoint .bpPack .start s → s.host = [] → s.inReset = false →
      s.phase = .eDict → s.curLen.toNat ≤ s.cfg.maxChunk →
      chunk = (List.range s.curLen.toNat).map (s.bufByte .chunk) →
      s.outFifo.length + 8 + ceil8 (chunk.flatMap (codewordOf s.codeLen s.codeVal)).length ≤ s.cfg.outDepth →
      ∃ P, Packed (chunk.flatMap (codewordOf s.codeLen s.codeVal)) P ∧
        Host.Core.run Sys2Proof.core (8 + P.length + 1) s = .next { s with
          outFifo := s.outFifo ++ (be32 s.bitLen ++ be32 s.byteLen ++ P),
          outCount := s.outCount + BitVec.ofNat 32 (8 + P.length),
          chunkCount := s.chunkCount + 1, phase := .idle, run := none,
          irqStatus := s.irqStatus ||| 0b01#2 })

/-- R180, R182: the steps that complete the composites of the encoder: both complete at the end of input when no byte
was loaded; ENC_CHUNK completes when its record is written; ENC_ALL then goes on to the next
chunk, or to EOF. -/
def Obligations.EncCompositesComplete : Prop :=
  (∀ (i : Instr) (s : State) (cs : Nat), i = .encChunk ∨ i = .encAll →
    AtPoint i (.popped (.load cs 0) none) s →
    exec i s = .next { s with
      curLen := 0#32, dictCount := BitVec.ofNat 32 (present s.freq).length,
      endFlag := true, run := none, irqStatus := s.irqStatus ||| 0b01#2 }) ∧
  (∀ s : State, AtPoint .encChunk (.pushed .pack []) s →
    exec .encChunk s = .next { s with
      chunkCount := s.chunkCount + 1, phase := .idle, run := none,
      irqStatus := s.irqStatus ||| 0b01#2 }) ∧
  (∀ (s : State) (b : Byte) (rest : List Byte), AtPoint .encAll (.pushed .pack []) s →
    1 ≤ s.chunkSize.toNat → s.inFifo = b :: rest →
    exec .encAll s = .next { s with
      chunkCount := s.chunkCount + 1, phase := .idle,
      freq := Table.zero 32, freqSpec := true, bitLen := 0#32, byteLen := 0#32,
      inFifo := rest, inCount := s.inCount + 1,
      run := some { word := encode .encAll
                    point := .popped (.load s.chunkSize.toNat 0) (some b) } }) ∧
  (∀ s : State, AtPoint .encAll (.pushed .pack []) s → 1 ≤ s.chunkSize.toNat → s.inFifo = [] →
    s.inClosed = true →
    exec .encAll s = .next { s with
      chunkCount := s.chunkCount + 1, phase := .idle,
      freq := Table.zero 32, freqSpec := true, bitLen := 0#32, byteLen := 0#32,
      run := some { word := encode .encAll, point := .popped (.load s.chunkSize.toNat 0) none } })

/-- R180, R120 to R124: a whole ENC_CHUNK, with the chunk's bytes in the FIFO and room on the output: it completes in
IDLE with the chunk's record, in the container layout, appended to the output, and CHUNK_COUNT one higher. -/
def Obligations.EncChunkWritesTheRecord : Prop :=
  ∀ (s : State) (chunk rest : List Byte), AtPoint .encChunk .start s → s.host = [] → s.inReset = false →
    s.phase = .idle → s.cfg.wellFormed = true → s.chunkSize.toNat ≤ s.cfg.maxChunk →
    s.inFifo = chunk ++ rest → chunk ≠ [] →
    (chunk.length = s.chunkSize.toNat ∨
      (chunk.length < s.chunkSize.toNat ∧ rest = [] ∧ s.inClosed = true)) →
    HasRecord chunk → s.outFifo.length + 1548 + 4 * chunk.length ≤ s.cfg.outDepth →
    ∃ (t : State) (r : List Byte), IsRecord chunk r ∧
      Host.Core.run Sys2Proof.core (chunk.length + r.length + 2) s = .next t ∧
      t.run = none ∧ t.phase = .idle ∧ t.outFifo = s.outFifo ++ r ∧ t.inFifo = rest ∧
      t.chunkCount = s.chunkCount + 1 ∧ t.outCount = s.outCount + BitVec.ofNat 32 r.length ∧
      t.endFlag = s.endFlag

/-- R184: the function ENC_ALL computes, from IDLE with an empty output, on an input that is in the FIFO and closed:
the records of its chunks in order, or, where a chunk's tree has a leaf deeper than 32, the records of the
chunks before the first such chunk and the error CODE_TOO_LONG. -/
def Obligations.EncAllWritesEveryRecord : Prop :=
  ∀ (s : State) (x : List Byte), AtPoint .encAll .start s → s.host = [] → s.inReset = false →
    s.phase = .idle → s.cfg.wellFormed = true → 1 ≤ s.chunkSize.toNat →
    s.chunkSize.toNat ≤ s.cfg.maxChunk → s.inFifo = x → s.inClosed = true → s.outFifo = [] →
    1552 * (x.length + 1) ≤ s.cfg.outDepth →
    ((∀ c ∈ chunksOf s.chunkSize.toNat x.length x, HasRecord c) →
      ∃ (n : Nat) (t : State) (records : List (List Byte)),
        Host.Core.run Sys2Proof.core n s = .next t ∧ t.run = none ∧ t.phase = .idle ∧ t.endFlag = true ∧
        List.Forall₂ IsRecord (chunksOf s.chunkSize.toNat x.length x) records ∧
        t.outFifo = records.flatten) ∧
    (∀ pre c post, chunksOf s.chunkSize.toNat x.length x = pre ++ c :: post →
      (∀ d ∈ pre, HasRecord d) → ¬ HasRecord c →
      ∃ (n : Nat) (t : State) (records : List (List Byte)),
        Host.Core.run Sys2Proof.core n s = .next t ∧ t.run = none ∧ t.phase = .error ∧
        t.errCode = 0x03#8 ∧ List.Forall₂ IsRecord pre records ∧ t.outFifo = records.flatten)

/-! ## Decoder -/

/-- R240, R241, R84: DEC_READ_COUNT: the lengths are cleared and the first byte, or EOF, is taken; so are the others;
the fourth completes it in D_ENTRIES, or raises DICT_TOO_LARGE above 256; EOF at the first byte is the end of
the container, EOF later is TRUNCATED. -/
def Obligations.DecReadCountCompletes : Prop :=
  (∀ (s : State) (b : Byte) (rest : List Byte), AtStart .decReadCount s → s.phase = .idle →
    s.inFifo = b :: rest → exec .decReadCount s = .next { s with
      curLen := 0#32, bitLen := 0#32, byteLen := 0#32, inFifo := rest, inCount := s.inCount + 1,
      run := some { word := encode .decReadCount, point := .popped (.count []) (some b) } }) ∧
  (∀ s : State, AtStart .decReadCount s → s.phase = .idle → s.inFifo = [] → s.inClosed = true →
    exec .decReadCount s = .next { s with
      curLen := 0#32, bitLen := 0#32, byteLen := 0#32,
      run := some { word := encode .decReadCount, point := .popped (.count []) none } }) ∧
  (∀ (s : State) (got : List Byte) (b : Byte), AtPoint .decReadCount (.popped (.count got) (some b)) s →
    got.length < 3 → s.inFifo = [] → s.inClosed = true →
    exec .decReadCount s = .next { s with
      run := some { word := encode .decReadCount, point := .popped (.count (got ++ [b])) none } }) ∧
  (∀ (s : State) (got rest : List Byte) (b c : Byte),
    AtPoint .decReadCount (.popped (.count got) (some b)) s → got.length < 3 → s.inFifo = c :: rest →
    exec .decReadCount s = .next { s with
      inFifo := rest, inCount := s.inCount + 1,
      run := some { word := encode .decReadCount, point := .popped (.count (got ++ [b])) (some c) } }) ∧
  (∀ (s : State) (b0 b1 b2 b3 : Byte),
    AtPoint .decReadCount (.popped (.count [b0, b1, b2]) (some b3)) s →
    (b0 ++ b1 ++ b2 ++ b3 : Word).toNat ≤ 256 →
    exec .decReadCount s = .next { s with
      dictCount := b0 ++ b1 ++ b2 ++ b3, phase := .dEntries, run := none,
      irqStatus := s.irqStatus ||| 0b01#2 }) ∧
  (∀ (s : State) (b0 b1 b2 b3 : Byte),
    AtPoint .decReadCount (.popped (.count [b0, b1, b2]) (some b3)) s →
    256 < (b0 ++ b1 ++ b2 ++ b3 : Word).toNat →
    exec .decReadCount s = .next ({ s with dictCount := b0 ++ b1 ++ b2 ++ b3 }.raiseError .dictTooLarge)) ∧
  (∀ s : State, AtPoint .decReadCount (.popped (.count []) none) s →
    exec .decReadCount s = .next { s with
      endFlag := true, run := none, irqStatus := s.irqStatus ||| 0b01#2 }) ∧
  (∀ (s : State) (b : Byte) (got : List Byte), AtPoint .decReadCount (.popped (.count (b :: got)) none) s →
    exec .decReadCount s = .next (s.raiseError .truncated))

/-- R243 to R245, R241: DEC_READ_ENTRIES takes the bytes of an entry one by one, or EOF (R84); on its six bytes: BAD_CODE_LEN for a
length above 32; DUP_CODEWORD for a codeword of an earlier entry; else the entry is written, its value masked to its
low L bits, and the next entry begins, or the command completes in D_META after the last; with no entry it
completes at once. -/
def Obligations.DecReadEntriesTakesEachByteAndCompletes : Prop :=
  (∀ (s : State) (b : Byte) (rest : List Byte), AtStart .decReadEntries s → s.phase = .dEntries →
    1 ≤ s.dictCount.toNat → s.inFifo = b :: rest → exec .decReadEntries s = .next { s with
      inFifo := rest, inCount := s.inCount + 1,
      run := some { word := encode .decReadEntries, point := .popped (.entry 0 []) (some b) } }) ∧
  (∀ s : State, AtStart .decReadEntries s → s.phase = .dEntries → 1 ≤ s.dictCount.toNat → s.inFifo = [] →
    s.inClosed = true → exec .decReadEntries s = .next { s with
      run := some { word := encode .decReadEntries, point := .popped (.entry 0 []) none } }) ∧
  (∀ (s : State) (i : Nat) (got : List Byte) (b : Byte),
    AtPoint .decReadEntries (.popped (.entry i got) (some b)) s → got.length < 5 → s.inFifo = [] →
    s.inClosed = true → exec .decReadEntries s = .next { s with
      run := some { word := encode .decReadEntries, point := .popped (.entry i (got ++ [b])) none } }) ∧
  (∀ (s : State) (i : Nat) (sym L v0 v1 v2 v3 : Byte),
    AtPoint .decReadEntries (.popped (.entry i [sym, L, v0, v1, v2]) (some v3)) s → L.toNat ≤ 32 →
    (¬ ∃ j < i, (Table.entry s.dictLen j).toNat = L.toNat ∧
      (Table.entry s.dictVal j).toNat = (v0 ++ v1 ++ v2 ++ v3 : Word).toNat % 2 ^ L.toNat) →
    i + 1 < s.dictCount.toNat → s.inFifo = [] → s.inClosed = true →
    exec .decReadEntries s = .next { s with
      dictSym := Table.put s.dictSym i sym
      dictLen := Table.put s.dictLen i (L.setWidth 6)
      dictVal := Table.put s.dictVal i
        (BitVec.ofNat 32 ((v0 ++ v1 ++ v2 ++ v3 : Word).toNat % 2 ^ L.toNat))
      dictSpec := max s.dictSpec (i + 1)
      run := some { word := encode .decReadEntries, point := .popped (.entry (i + 1) []) none } }) ∧
  (∀ (s : State) (i : Nat) (got rest : List Byte) (b c : Byte),
    AtPoint .decReadEntries (.popped (.entry i got) (some b)) s → got.length < 5 → s.inFifo = c :: rest →
    exec .decReadEntries s = .next { s with
      inFifo := rest, inCount := s.inCount + 1,
      run := some { word := encode .decReadEntries
                    point := .popped (.entry i (got ++ [b])) (some c) } }) ∧
  (∀ (s : State) (i : Nat) (sym L v0 v1 v2 v3 c : Byte) (rest : List Byte),
    AtPoint .decReadEntries (.popped (.entry i [sym, L, v0, v1, v2]) (some v3)) s → L.toNat ≤ 32 →
    (¬ ∃ j < i, (Table.entry s.dictLen j).toNat = L.toNat ∧
      (Table.entry s.dictVal j).toNat = (v0 ++ v1 ++ v2 ++ v3 : Word).toNat % 2 ^ L.toNat) →
    i + 1 < s.dictCount.toNat → s.inFifo = c :: rest →
    exec .decReadEntries s = .next { s with
      dictSym := Table.put s.dictSym i sym
      dictLen := Table.put s.dictLen i (L.setWidth 6)
      dictVal := Table.put s.dictVal i
        (BitVec.ofNat 32 ((v0 ++ v1 ++ v2 ++ v3 : Word).toNat % 2 ^ L.toNat))
      dictSpec := max s.dictSpec (i + 1)
      inFifo := rest, inCount := s.inCount + 1,
      run := some { word := encode .decReadEntries, point := .popped (.entry (i + 1) []) (some c) } }) ∧
  (∀ (s : State) (i : Nat) (sym L v0 v1 v2 v3 : Byte),
    AtPoint .decReadEntries (.popped (.entry i [sym, L, v0, v1, v2]) (some v3)) s → 32 < L.toNat →
    exec .decReadEntries s = .next (s.raiseError .badCodeLen)) ∧
  (∀ (s : State) (i : Nat) (sym L v0 v1 v2 v3 : Byte),
    AtPoint .decReadEntries (.popped (.entry i [sym, L, v0, v1, v2]) (some v3)) s → L.toNat ≤ 32 →
    (∃ j < i, (Table.entry s.dictLen j).toNat = L.toNat ∧
      (Table.entry s.dictVal j).toNat = (v0 ++ v1 ++ v2 ++ v3 : Word).toNat % 2 ^ L.toNat) →
    exec .decReadEntries s = .next (s.raiseError .dupCodeword)) ∧
  (∀ (s : State) (i : Nat) (sym L v0 v1 v2 v3 : Byte),
    AtPoint .decReadEntries (.popped (.entry i [sym, L, v0, v1, v2]) (some v3)) s → L.toNat ≤ 32 →
    (¬ ∃ j < i, (Table.entry s.dictLen j).toNat = L.toNat ∧
      (Table.entry s.dictVal j).toNat = (v0 ++ v1 ++ v2 ++ v3 : Word).toNat % 2 ^ L.toNat) →
    s.dictCount.toNat ≤ i + 1 →
    exec .decReadEntries s = .next { s with
      dictSym := Table.put s.dictSym i sym
      dictLen := Table.put s.dictLen i (L.setWidth 6)
      dictVal := Table.put s.dictVal i
        (BitVec.ofNat 32 ((v0 ++ v1 ++ v2 ++ v3 : Word).toNat % 2 ^ L.toNat))
      dictSpec := max s.dictSpec (i + 1)
      phase := .dMeta, run := none, irqStatus := s.irqStatus ||| 0b01#2 }) ∧
  (∀ s : State, AtStart .decReadEntries s → s.phase = .dEntries → s.dictCount = 0#32 →
    exec .decReadEntries s = .next { s with
      phase := .dMeta, run := none, irqStatus := s.irqStatus ||| 0b01#2 }) ∧
  (∀ (s : State) (i : Nat) (got : List Byte), AtPoint .decReadEntries (.popped (.entry i got) none) s →
    exec .decReadEntries s = .next (s.raiseError .truncated))

/-- R246, R241, R84: DEC_READ_META takes the bytes of the two lengths one by one, or EOF, which is TRUNCATED; BIT_LEN is
written when its four bytes are read, BYTE_LEN with the fourth byte after them;
then BITLEN_EXCEEDS, in exact arithmetic, before PAYLOAD_TOO_LARGE; else it completes in D_PAYLOAD. -/
def Obligations.DecReadMetaCompletes : Prop :=
  (∀ (s : State) (b : Byte) (rest : List Byte), AtStart .decReadMeta s → s.phase = .dMeta →
    s.inFifo = b :: rest → exec .decReadMeta s = .next { s with
      inFifo := rest, inCount := s.inCount + 1,
      run := some { word := encode .decReadMeta, point := .popped (.bitLen []) (some b) } }) ∧
  (∀ s : State, AtStart .decReadMeta s → s.phase = .dMeta → s.inFifo = [] → s.inClosed = true →
    exec .decReadMeta s = .next { s with
      run := some { word := encode .decReadMeta, point := .popped (.bitLen []) none } }) ∧
  (∀ (s : State) (got rest : List Byte) (b c : Byte),
    AtPoint .decReadMeta (.popped (.bitLen got) (some b)) s → got.length < 3 → s.inFifo = c :: rest →
    exec .decReadMeta s = .next { s with
      inFifo := rest, inCount := s.inCount + 1,
      run := some { word := encode .decReadMeta, point := .popped (.bitLen (got ++ [b])) (some c) } }) ∧
  (∀ (s : State) (got : List Byte) (b : Byte), AtPoint .decReadMeta (.popped (.bitLen got) (some b)) s →
    got.length < 3 → s.inFifo = [] → s.inClosed = true → exec .decReadMeta s = .next { s with
      run := some { word := encode .decReadMeta, point := .popped (.bitLen (got ++ [b])) none } }) ∧
  (∀ (s : State) (got rest : List Byte) (b c : Byte),
    AtPoint .decReadMeta (.popped (.byteLen got) (some b)) s → got.length < 3 → s.inFifo = c :: rest →
    exec .decReadMeta s = .next { s with
      inFifo := rest, inCount := s.inCount + 1,
      run := some { word := encode .decReadMeta, point := .popped (.byteLen (got ++ [b])) (some c) } }) ∧
  (∀ (s : State) (got : List Byte) (b : Byte), AtPoint .decReadMeta (.popped (.byteLen got) (some b)) s →
    got.length < 3 → s.inFifo = [] → s.inClosed = true → exec .decReadMeta s = .next { s with
      run := some { word := encode .decReadMeta, point := .popped (.byteLen (got ++ [b])) none } }) ∧
  (∀ (s : State) (b0 b1 b2 b3 c : Byte) (rest : List Byte),
    AtPoint .decReadMeta (.popped (.bitLen [b0, b1, b2]) (some b3)) s → s.inFifo = c :: rest →
    exec .decReadMeta s = .next { s with
      bitLen := b0 ++ b1 ++ b2 ++ b3, inFifo := rest, inCount := s.inCount + 1,
      run := some { word := encode .decReadMeta, point := .popped (.byteLen []) (some c) } }) ∧
  (∀ (s : State) (b0 b1 b2 b3 : Byte),
    AtPoint .decReadMeta (.popped (.bitLen [b0, b1, b2]) (some b3)) s → s.inFifo = [] → s.inClosed = true →
    exec .decReadMeta s = .next { s with
      bitLen := b0 ++ b1 ++ b2 ++ b3,
      run := some { word := encode .decReadMeta, point := .popped (.byteLen []) none } }) ∧
  (∀ (s : State) (b0 b1 b2 b3 : Byte),
    AtPoint .decReadMeta (.popped (.byteLen [b0, b1, b2]) (some b3)) s →
    8 * (b0 ++ b1 ++ b2 ++ b3 : Word).toNat < s.bitLen.toNat →
    exec .decReadMeta s = .next ({ s with byteLen := b0 ++ b1 ++ b2 ++ b3 }.raiseError .bitlenExceeds)) ∧
  (∀ (s : State) (b0 b1 b2 b3 : Byte),
    AtPoint .decReadMeta (.popped (.byteLen [b0, b1, b2]) (some b3)) s →
    s.bitLen.toNat ≤ 8 * (b0 ++ b1 ++ b2 ++ b3 : Word).toNat →
    4 * s.cfg.maxChunk < (b0 ++ b1 ++ b2 ++ b3 : Word).toNat →
    exec .decReadMeta s =
      .next ({ s with byteLen := b0 ++ b1 ++ b2 ++ b3 }.raiseError .payloadTooLarge)) ∧
  (∀ (s : State) (b0 b1 b2 b3 : Byte),
    AtPoint .decReadMeta (.popped (.byteLen [b0, b1, b2]) (some b3)) s →
    s.bitLen.toNat ≤ 8 * (b0 ++ b1 ++ b2 ++ b3 : Word).toNat →
    (b0 ++ b1 ++ b2 ++ b3 : Word).toNat ≤ 4 * s.cfg.maxChunk →
    exec .decReadMeta s = .next { s with
      byteLen := b0 ++ b1 ++ b2 ++ b3, phase := .dPayload, run := none,
      irqStatus := s.irqStatus ||| 0b01#2 }) ∧
  (∀ (s : State) (got : List Byte),
    AtPoint .decReadMeta (.popped (.bitLen got) none) s ∨
      AtPoint .decReadMeta (.popped (.byteLen got) none) s →
    exec .decReadMeta s = .next (s.raiseError .truncated))

/-- R290: BU_READ_PAYLOAD: each byte is stored at its index, the BYTE_LEN-th completes the command in D_DECODE, with
BYTE_LEN = 0 it completes at once, and EOF before, which the next InPop returns at the end of the input (R84),
is TRUNCATED. -/
def Obligations.BuReadPayloadCompletes : Prop :=
  (∀ (s : State) (b : Byte) (rest : List Byte), AtStart .buReadPayload s → s.phase = .dPayload →
    1 ≤ s.byteLen.toNat → s.inFifo = b :: rest → exec .buReadPayload s = .next { s with
      inFifo := rest, inCount := s.inCount + 1,
      run := some { word := encode .buReadPayload, point := .popped (.payload 0) (some b) } }) ∧
  (∀ s : State, AtStart .buReadPayload s → s.phase = .dPayload → 1 ≤ s.byteLen.toNat → s.inFifo = [] →
    s.inClosed = true → exec .buReadPayload s = .next { s with
      run := some { word := encode .buReadPayload, point := .popped (.payload 0) none } }) ∧
  (∀ (s : State) (n : Nat) (b : Byte), AtPoint .buReadPayload (.popped (.payload n) (some b)) s →
    n < 4 * s.cfg.maxChunk → n + 1 < s.byteLen.toNat → s.inFifo = [] → s.inClosed = true →
    exec .buReadPayload s = .next { s with
      payloadBuf := Memory.insert s.payloadBuf n b,
      run := some { word := encode .buReadPayload, point := .popped (.payload (n + 1)) none } }) ∧
  (∀ (s : State) (n : Nat) (b c : Byte) (rest : List Byte),
    AtPoint .buReadPayload (.popped (.payload n) (some b)) s → n < 4 * s.cfg.maxChunk →
    n + 1 < s.byteLen.toNat → s.inFifo = c :: rest → exec .buReadPayload s = .next { s with
      payloadBuf := Memory.insert s.payloadBuf n b, inFifo := rest, inCount := s.inCount + 1,
      run := some { word := encode .buReadPayload, point := .popped (.payload (n + 1)) (some c) } }) ∧
  (∀ (s : State) (n : Nat) (b : Byte), AtPoint .buReadPayload (.popped (.payload n) (some b)) s →
    n < 4 * s.cfg.maxChunk → s.byteLen.toNat ≤ n + 1 → exec .buReadPayload s = .next { s with
      payloadBuf := Memory.insert s.payloadBuf n b, phase := .dDecode, run := none,
      irqStatus := s.irqStatus ||| 0b01#2 }) ∧
  (∀ s : State, AtStart .buReadPayload s → s.phase = .dPayload → s.byteLen = 0#32 →
    exec .buReadPayload s = .next { s with
      phase := .dDecode, run := none, irqStatus := s.irqStatus ||| 0b01#2 }) ∧
  (∀ (s : State) (n : Nat), AtPoint .buReadPayload (.popped (.payload n) none) s →
    exec .buReadPayload s = .next (s.raiseError .truncated))

/-- R250: DEC_DECODE's last step, once the chunk's bytes are pushed; and with no bits to decode it completes in one
step. -/
def Obligations.DecDecodeCompletes : Prop :=
  (∀ s : State, AtPoint .decDecode (.pushed .decoded []) s →
    exec .decDecode s = .next { s with
      chunkCount := s.chunkCount + 1, phase := .idle, cand := none, run := none,
      irqStatus := s.irqStatus ||| 0b01#2 }) ∧
  (∀ s : State, AtStart .decDecode s → s.phase = .dDecode → s.bitLen = 0#32 →
    exec .decDecode s = .next { s with
      curLen := 0#32, chunkCount := s.chunkCount + 1, phase := .idle, cand := none, run := none,
      irqStatus := s.irqStatus ||| 0b01#2 })

/-- R250 to R252: DEC_DECODE's first step is the greedy decoding of the payload bit string by the inverse dictionary:
OUTPUT_TOO_LARGE when it gives more than MAX_CHUNK bytes, else UNMATCHED_BITS when a candidate is left over, else
the bytes are in CHUNK_BUF and the first is pushed; CHUNK_BUF beyond them (log 3) and PAYLOAD_BUF stay. -/
def Obligations.DecDecodeIsGreedy : Prop :=
  ∀ (s : State) (out : List Byte) (clean : Bool), Inv s → AtPoint .decDecode .start s →
    s.phase = .dDecode → greedy s.inverseDict [] s.payloadString = (out, clean) →
    (s.cfg.maxChunk < out.length → ∃ t, exec .decDecode s = .next t ∧ t.phase = .error ∧
      t.errCode = 0x0B#8 ∧ t.outFifo = s.outFifo) ∧
    (out.length ≤ s.cfg.maxChunk → clean = false → ∃ t, exec .decDecode s = .next t ∧ t.phase = .error ∧
      t.errCode = 0x07#8 ∧ t.outFifo = s.outFifo) ∧
    (∀ b rest, out = b :: rest → out.length ≤ s.cfg.maxChunk → clean = true →
      s.outFifo.length < s.cfg.outDepth → ∃ t, exec .decDecode s = .next t ∧
        AtPoint .decDecode (.pushed .decoded rest) t ∧ t.outFifo = s.outFifo ++ [b] ∧
        t.outCount = s.outCount + 1 ∧ t.curLen = BitVec.ofNat 32 out.length ∧ t.phase = .dDecode ∧
        (∀ (k : Nat) (h : k < out.length), t.bufByte .chunk k = out[k]) ∧
        (∀ k, out.length ≤ k → t.bufByte .chunk k = s.bufByte .chunk k) ∧
        t.payloadBuf = s.payloadBuf ∧ t.inFifo = s.inFifo)

/-- R253: every error a chunk can raise is raised before DEC_DECODE's first OutPush: once DEC_DECODE or a composite
pushes decoded bytes, its steps push them in order and no error is raised until they are all pushed and the
chunk is complete. -/
def Obligations.NoErrorOnceDecodedBytesArePushed : Prop :=
  ∀ (i : Instr) (s t : State) (rest : List Byte), i = .decDecode ∨ i = .decChunk ∨ i = .decAll →
    AtPoint i (.pushed .decoded rest) s → s.phase ≠ .error → exec i s = .next t →
    t.phase ≠ .error ∧
    ((∃ b tail, rest = b :: tail ∧
        (t = s ∨ (t.outFifo = s.outFifo ++ [b] ∧ AtPoint i (.pushed .decoded tail) t))) ∨
      (rest = [] ∧ (t = s ∨ (t.chunkCount = s.chunkCount + 1 ∧ t.outFifo = s.outFifo))))

/-- R258, R260: the steps that complete the composites of the decoder: both complete at the end of the container;
DEC_CHUNK completes when its chunk is written; DEC_ALL then goes on to the next record, or to EOF. -/
def Obligations.DecCompositesComplete : Prop :=
  (∀ (i : Instr) (s : State), i = .decChunk ∨ i = .decAll → AtPoint i (.popped (.count []) none) s →
    s.phase = .idle → exec i s = .next { s with
      endFlag := true, run := none, irqStatus := s.irqStatus ||| 0b01#2 }) ∧
  (∀ s : State, AtPoint .decChunk (.pushed .decoded []) s →
    exec .decChunk s = .next { s with
      chunkCount := s.chunkCount + 1, phase := .idle, cand := none, run := none,
      irqStatus := s.irqStatus ||| 0b01#2 }) ∧
  (∀ (s : State) (b : Byte) (rest : List Byte), AtPoint .decAll (.pushed .decoded []) s →
    s.inFifo = b :: rest → exec .decAll s = .next { s with
      chunkCount := s.chunkCount + 1, phase := .idle, cand := none,
      curLen := 0#32, bitLen := 0#32, byteLen := 0#32, inFifo := rest, inCount := s.inCount + 1,
      run := some { word := encode .decAll, point := .popped (.count []) (some b) } }) ∧
  (∀ s : State, AtPoint .decAll (.pushed .decoded []) s → s.inFifo = [] → s.inClosed = true →
    exec .decAll s = .next { s with
      chunkCount := s.chunkCount + 1, phase := .idle, cand := none,
      curLen := 0#32, bitLen := 0#32, byteLen := 0#32,
      run := some { word := encode .decAll, point := .popped (.count []) none } })

/-- R264 for one chunk: a whole DEC_CHUNK on the record of a chunk that fits, with room on the output, gives the chunk
back. -/
def Obligations.DecChunkRestoresTheChunk : Prop :=
  ∀ (s : State) (chunk r rest : List Byte), IsRecord chunk r → HasRecord chunk → chunk ≠ [] →
    chunk.length ≤ s.cfg.maxChunk → s.cfg.wellFormed = true →
    AtPoint .decChunk .start s → s.host = [] → s.inReset = false → s.phase = .idle →
    s.inFifo = r ++ rest → s.outFifo.length + chunk.length ≤ s.cfg.outDepth →
    ∃ t : State, Host.Core.run Sys2Proof.core (r.length + chunk.length + 1) s = .next t ∧
      t.run = none ∧ t.phase = .idle ∧ t.outFifo = s.outFifo ++ chunk ∧ t.inFifo = rest ∧
      t.chunkCount = s.chunkCount + 1 ∧ t.curLen = BitVec.ofNat 32 chunk.length ∧
      t.inCount = s.inCount + BitVec.ofNat 32 r.length ∧ t.endFlag = s.endFlag

/-- R264: for every input and chunk size for which ENC_ALL completes, decoding the container it writes, on an instance
with the same or a larger MAX_CHUNK, completes and gives exactly the input. -/
def Obligations.CompressThenDecompressGivesBack : Prop :=
  ∀ (s t d : State) (x : List Byte) (n : Nat),
    AtPoint .encAll .start s → s.host = [] → s.inReset = false → s.phase = .idle →
    s.cfg.wellFormed = true → 1 ≤ s.chunkSize.toNat → s.chunkSize.toNat ≤ s.cfg.maxChunk →
    s.inFifo = x → s.inClosed = true → s.outFifo = [] →
    Host.Core.run Sys2Proof.core n s = .next t → t.run = none → t.phase = .idle →
    AtPoint .decAll .start d → d.host = [] → d.inReset = false → d.phase = .idle →
    d.cfg.wellFormed = true → s.cfg.maxChunk ≤ d.cfg.maxChunk →
    d.inFifo = t.outFifo → d.inClosed = true → d.outFifo.length + x.length ≤ d.cfg.outDepth →
    ∃ (m : Nat) (u : State), Host.Core.run Sys2Proof.core m d = .next u ∧ u.run = none ∧
      u.phase = .idle ∧ u.endFlag = true ∧ u.outFifo = d.outFifo ++ x

/-! ## Frames -/

/-- R33, R39, R40, R53: no command writes the registers that only the host writes, the reset input, or anything that
is the host's, and only CLEAR touches CMD_DROP and IN_CLOSED. -/
def Obligations.CommandsLeaveTheHostsRegisters : Prop :=
  ∀ (i : Instr) (s t : State), exec i s = .next t →
    t.cfg = s.cfg ∧ t.chunkSize = s.chunkSize ∧ t.irqEn = s.irqEn ∧ t.inReset = s.inReset ∧
    t.epoch = s.epoch ∧ t.free = s.free ∧ t.host = s.host ∧ t.replies = s.replies ∧
    (i ≠ .clear → t.cmdDrop = s.cmdDrop ∧ t.inClosed = s.inClosed)

/-- R51, R52, R54, R80: which commands write which table and which buffer. -/
def Obligations.TablesAreWrittenOnlyBy : Prop :=
  ∀ (i : Instr) (s t : State), hasPoint i s.point = true → exec i s = .next t →
    (i ≠ .encLoad → i ≠ .encChunk → i ≠ .encAll → t.freq = s.freq) ∧
    (i ≠ .ctGen → i ≠ .encChunk → i ≠ .encAll → t.codeLen = s.codeLen ∧ t.codeVal = s.codeVal) ∧
    (i ≠ .decReadEntries → i ≠ .decChunk → i ≠ .decAll →
      t.dictSym = s.dictSym ∧ t.dictLen = s.dictLen ∧ t.dictVal = s.dictVal) ∧
    (i ≠ .encLoad → i ≠ .encChunk → i ≠ .encAll → i ≠ .decDecode → i ≠ .decChunk → i ≠ .decAll →
      t.chunkBuf = s.chunkBuf) ∧
    (i ≠ .buReadPayload → i ≠ .decChunk → i ≠ .decAll → t.payloadBuf = s.payloadBuf)

/-- R35, R56: END, IN_CLOSED and CMD_DROP are sticky: only CLEAR and reset clear them. -/
def Obligations.StatusFlagsAreSticky : Prop :=
  ∀ s t : State, step s = .next t → (∀ r, s.run = some r → r.word ≠ encode .clear) →
    (∀ rest, s.host ≠ .rstAssert :: rest) → (∀ rest, s.host ≠ .rstRelease :: rest) →
    (s.endFlag = true → t.endFlag = true) ∧ (s.inClosed = true → t.inClosed = true) ∧
    (s.cmdDrop = true → t.cmdDrop = true)

/-! ## Reset and invariants -/

/-- R350: what reset leaves, whatever the block was doing, on assertion and at release; while it is asserted CSR writes
and transfers are ignored, the output port offers no byte and the engine does nothing. -/
def Obligations.ResetLeavesTheResetState : Prop :=
  (∀ (s : State) (m : Move), m = .rstAssert ∨ m = .rstRelease →
    (m.act s).run = none ∧ (m.act s).endFlag = false ∧ (m.act s).inClosed = false ∧
    (m.act s).cmdDrop = false ∧ (m.act s).phase = .idle ∧
    statusWord (m.act s).phase (m.act s) = 0x00000030#32 ∧
    (m.act s).inFifo = [] ∧ (m.act s).outFifo = [] ∧
    (m.act s).chunkSize = BitVec.ofNat 32 s.cfg.maxChunk ∧ (m.act s).irqEn = 0#2 ∧
    (m.act s).irqStatus = 0#2 ∧ (m.act s).irq = false ∧ (m.act s).errCode = 0#8 ∧
    (m.act s).errInfo = 0#12 ∧ (m.act s).chunkCount = 0#32 ∧ (m.act s).inCount = 0#32 ∧
    (m.act s).outCount = 0#32 ∧ (m.act s).curLen = 0#32 ∧ (m.act s).dictCount = 0#32 ∧
    (m.act s).bitLen = 0#32 ∧ (m.act s).byteLen = 0#32 ∧ (m.act s).tree = none ∧ (m.act s).queue = [] ∧
    (m.act s).cand = none ∧ (m.act s).cfg = s.cfg ∧ ((m.act s).inReset = true ↔ m = .rstAssert) ∧
    readCsr 0x0000#16 (m.act s) = (0x48554646#32, m.act s) ∧
    readCsr 0x0040#16 (m.act s) = (BitVec.ofNat 32 s.cfg.maxChunk, m.act s)) ∧
  (∀ (s : State) (a : Addr) (v : Word) (b : Byte) (last : Bool), s.inReset = true →
    (Move.csrWrite a v).act s = s ∧ (Move.send b last).act s = s ∧ Move.recv.ready s = false ∧
    engineTurn s = .next s)

/-- The reset state of every legal instance has the invariant. -/
def Obligations.ResetMeetsTheInvariant : Prop :=
  ∀ c : Params, c.wellFormed = true → Inv (State.resetOf c) ∧ Conserved (State.resetOf c)

/-- Every step, of the host or of the engine, keeps the invariant. -/
def Obligations.StepKeepsTheInvariant : Prop :=
  ∀ s t : State, Inv s → step s = .next t → Inv t

/-- R80: from a state that has the invariant no step faults or refuses: every buffer index the commands use exists. -/
def Obligations.NoStepFaults : Prop :=
  ∀ s : State, Inv s → ∃ t, step s = .next t

/-- R161: conservation is kept by every step: from E_LOADED to E_DICT the frequencies sum to CUR_LEN ≥ 1 and DICT_COUNT
is the number of symbols present. -/
def Obligations.StepKeepsConservation : Prop :=
  ∀ s t : State, Inv s → Conserved s → step s = .next t → Conserved t
end

