-- ==== Sys2Proof/Laws/State.lean ====
section
/-! SUPPORT. One lemma per field per named update of the state. -/

namespace Sys2Proof.Machine

/-! ### Completion (R152) -/

@[simp] theorem State.complete_cfg (s : State) : (s.complete).cfg = s.cfg := rfl
@[simp] theorem State.complete_chunkSize (s : State) : (s.complete).chunkSize = s.chunkSize := rfl
@[simp] theorem State.complete_irqEn (s : State) : (s.complete).irqEn = s.irqEn := rfl
@[simp] theorem State.complete_irqStatus (s : State) : (s.complete).irqStatus = setDone s.irqStatus := rfl
@[simp] theorem State.complete_errCode (s : State) : (s.complete).errCode = s.errCode := rfl
@[simp] theorem State.complete_errInfo (s : State) : (s.complete).errInfo = s.errInfo := rfl
@[simp] theorem State.complete_chunkCount (s : State) : (s.complete).chunkCount = s.chunkCount := rfl
@[simp] theorem State.complete_inCount (s : State) : (s.complete).inCount = s.inCount := rfl
@[simp] theorem State.complete_outCount (s : State) : (s.complete).outCount = s.outCount := rfl
@[simp] theorem State.complete_curLen (s : State) : (s.complete).curLen = s.curLen := rfl
@[simp] theorem State.complete_dictCount (s : State) : (s.complete).dictCount = s.dictCount := rfl
@[simp] theorem State.complete_bitLen (s : State) : (s.complete).bitLen = s.bitLen := rfl
@[simp] theorem State.complete_byteLen (s : State) : (s.complete).byteLen = s.byteLen := rfl
@[simp] theorem State.complete_run (s : State) : (s.complete).run = none := rfl
@[simp] theorem State.complete_endFlag (s : State) : (s.complete).endFlag = s.endFlag := rfl
@[simp] theorem State.complete_inClosed (s : State) : (s.complete).inClosed = s.inClosed := rfl
@[simp] theorem State.complete_cmdDrop (s : State) : (s.complete).cmdDrop = s.cmdDrop := rfl
@[simp] theorem State.complete_phase (s : State) : (s.complete).phase = s.phase := rfl
@[simp] theorem State.complete_freq (s : State) : (s.complete).freq = s.freq := rfl
@[simp] theorem State.complete_codeVal (s : State) : (s.complete).codeVal = s.codeVal := rfl
@[simp] theorem State.complete_codeLen (s : State) : (s.complete).codeLen = s.codeLen := rfl
@[simp] theorem State.complete_dictSym (s : State) : (s.complete).dictSym = s.dictSym := rfl
@[simp] theorem State.complete_dictLen (s : State) : (s.complete).dictLen = s.dictLen := rfl
@[simp] theorem State.complete_dictVal (s : State) : (s.complete).dictVal = s.dictVal := rfl
@[simp] theorem State.complete_freqSpec (s : State) : (s.complete).freqSpec = s.freqSpec := rfl
@[simp] theorem State.complete_codeSpec (s : State) : (s.complete).codeSpec = s.codeSpec := rfl
@[simp] theorem State.complete_dictSpec (s : State) : (s.complete).dictSpec = s.dictSpec := rfl
@[simp] theorem State.complete_chunkBuf (s : State) : (s.complete).chunkBuf = s.chunkBuf := rfl
@[simp] theorem State.complete_payloadBuf (s : State) : (s.complete).payloadBuf = s.payloadBuf := rfl
@[simp] theorem State.complete_inFifo (s : State) : (s.complete).inFifo = s.inFifo := rfl
@[simp] theorem State.complete_outFifo (s : State) : (s.complete).outFifo = s.outFifo := rfl
@[simp] theorem State.complete_tree (s : State) : (s.complete).tree = s.tree := rfl
@[simp] theorem State.complete_queue (s : State) : (s.complete).queue = s.queue := rfl
@[simp] theorem State.complete_cand (s : State) : (s.complete).cand = s.cand := rfl
@[simp] theorem State.complete_inReset (s : State) : (s.complete).inReset = s.inReset := rfl
@[simp] theorem State.complete_epoch (s : State) : (s.complete).epoch = s.epoch := rfl
@[simp] theorem State.complete_free (s : State) : (s.complete).free = s.free := rfl
@[simp] theorem State.complete_host (s : State) : (s.complete).host = s.host := rfl
@[simp] theorem State.complete_replies (s : State) : (s.complete).replies = s.replies := rfl

/-! ### Error entry (R310) -/

@[simp] theorem State.raiseError_cfg (c : ErrCode) (s : State) : (s.raiseError c).cfg = s.cfg := rfl
@[simp] theorem State.raiseError_chunkSize (c : ErrCode) (s : State) :
    (s.raiseError c).chunkSize = s.chunkSize := rfl
@[simp] theorem State.raiseError_irqEn (c : ErrCode) (s : State) : (s.raiseError c).irqEn = s.irqEn := rfl
@[simp] theorem State.raiseError_irqStatus (c : ErrCode) (s : State) :
    (s.raiseError c).irqStatus = setErr s.irqStatus := rfl
@[simp] theorem State.raiseError_errCode (c : ErrCode) (s : State) :
    (s.raiseError c).errCode = c.code := rfl
@[simp] theorem State.raiseError_errInfo (c : ErrCode) (s : State) :
    (s.raiseError c).errInfo = errInfoOf s.phase (opcodeOf s.word) := rfl
@[simp] theorem State.raiseError_chunkCount (c : ErrCode) (s : State) :
    (s.raiseError c).chunkCount = s.chunkCount := rfl
@[simp] theorem State.raiseError_inCount (c : ErrCode) (s : State) :
    (s.raiseError c).inCount = s.inCount := rfl
@[simp] theorem State.raiseError_outCount (c : ErrCode) (s : State) :
    (s.raiseError c).outCount = s.outCount := rfl
@[simp] theorem State.raiseError_curLen (c : ErrCode) (s : State) :
    (s.raiseError c).curLen = s.curLen := rfl
@[simp] theorem State.raiseError_dictCount (c : ErrCode) (s : State) :
    (s.raiseError c).dictCount = s.dictCount := rfl
@[simp] theorem State.raiseError_bitLen (c : ErrCode) (s : State) :
    (s.raiseError c).bitLen = s.bitLen := rfl
@[simp] theorem State.raiseError_byteLen (c : ErrCode) (s : State) :
    (s.raiseError c).byteLen = s.byteLen := rfl
@[simp] theorem State.raiseError_run (c : ErrCode) (s : State) : (s.raiseError c).run = none := rfl
@[simp] theorem State.raiseError_endFlag (c : ErrCode) (s : State) :
    (s.raiseError c).endFlag = s.endFlag := rfl
@[simp] theorem State.raiseError_inClosed (c : ErrCode) (s : State) :
    (s.raiseError c).inClosed = s.inClosed := rfl
@[simp] theorem State.raiseError_cmdDrop (c : ErrCode) (s : State) :
    (s.raiseError c).cmdDrop = s.cmdDrop := rfl
@[simp] theorem State.raiseError_phase (c : ErrCode) (s : State) : (s.raiseError c).phase = .error := rfl
@[simp] theorem State.raiseError_freq (c : ErrCode) (s : State) : (s.raiseError c).freq = s.freq := rfl
@[simp] theorem State.raiseError_codeVal (c : ErrCode) (s : State) :
    (s.raiseError c).codeVal = s.codeVal := rfl
@[simp] theorem State.raiseError_codeLen (c : ErrCode) (s : State) :
    (s.raiseError c).codeLen = s.codeLen := rfl
@[simp] theorem State.raiseError_dictSym (c : ErrCode) (s : State) :
    (s.raiseError c).dictSym = s.dictSym := rfl
@[simp] theorem State.raiseError_dictLen (c : ErrCode) (s : State) :
    (s.raiseError c).dictLen = s.dictLen := rfl
@[simp] theorem State.raiseError_dictVal (c : ErrCode) (s : State) :
    (s.raiseError c).dictVal = s.dictVal := rfl
@[simp] theorem State.raiseError_freqSpec (c : ErrCode) (s : State) :
    (s.raiseError c).freqSpec = s.freqSpec := rfl
@[simp] theorem State.raiseError_codeSpec (c : ErrCode) (s : State) :
    (s.raiseError c).codeSpec = s.codeSpec := rfl
@[simp] theorem State.raiseError_dictSpec (c : ErrCode) (s : State) :
    (s.raiseError c).dictSpec = s.dictSpec := rfl
@[simp] theorem State.raiseError_chunkBuf (c : ErrCode) (s : State) :
    (s.raiseError c).chunkBuf = s.chunkBuf := rfl
@[simp] theorem State.raiseError_payloadBuf (c : ErrCode) (s : State) :
    (s.raiseError c).payloadBuf = s.payloadBuf := rfl
@[simp] theorem State.raiseError_inFifo (c : ErrCode) (s : State) :
    (s.raiseError c).inFifo = s.inFifo := rfl
@[simp] theorem State.raiseError_outFifo (c : ErrCode) (s : State) :
    (s.raiseError c).outFifo = s.outFifo := rfl
@[simp] theorem State.raiseError_tree (c : ErrCode) (s : State) : (s.raiseError c).tree = none := rfl
@[simp] theorem State.raiseError_queue (c : ErrCode) (s : State) : (s.raiseError c).queue = [] := rfl
@[simp] theorem State.raiseError_cand (c : ErrCode) (s : State) : (s.raiseError c).cand = none := rfl
@[simp] theorem State.raiseError_inReset (c : ErrCode) (s : State) :
    (s.raiseError c).inReset = s.inReset := rfl
@[simp] theorem State.raiseError_epoch (c : ErrCode) (s : State) : (s.raiseError c).epoch = s.epoch := rfl
@[simp] theorem State.raiseError_free (c : ErrCode) (s : State) : (s.raiseError c).free = s.free := rfl
@[simp] theorem State.raiseError_host (c : ErrCode) (s : State) : (s.raiseError c).host = s.host := rfl
@[simp] theorem State.raiseError_replies (c : ErrCode) (s : State) :
    (s.raiseError c).replies = s.replies := rfl

/-! ### The position -/

@[simp] theorem State.goto_cfg (p : Point) (s : State) : (s.goto p).cfg = s.cfg := rfl
@[simp] theorem State.goto_chunkSize (p : Point) (s : State) : (s.goto p).chunkSize = s.chunkSize := rfl
@[simp] theorem State.goto_irqEn (p : Point) (s : State) : (s.goto p).irqEn = s.irqEn := rfl
@[simp] theorem State.goto_irqStatus (p : Point) (s : State) : (s.goto p).irqStatus = s.irqStatus := rfl
@[simp] theorem State.goto_errCode (p : Point) (s : State) : (s.goto p).errCode = s.errCode := rfl
@[simp] theorem State.goto_errInfo (p : Point) (s : State) : (s.goto p).errInfo = s.errInfo := rfl
@[simp] theorem State.goto_chunkCount (p : Point) (s : State) : (s.goto p).chunkCount = s.chunkCount := rfl
@[simp] theorem State.goto_inCount (p : Point) (s : State) : (s.goto p).inCount = s.inCount := rfl
@[simp] theorem State.goto_outCount (p : Point) (s : State) : (s.goto p).outCount = s.outCount := rfl
@[simp] theorem State.goto_curLen (p : Point) (s : State) : (s.goto p).curLen = s.curLen := rfl
@[simp] theorem State.goto_dictCount (p : Point) (s : State) : (s.goto p).dictCount = s.dictCount := rfl
@[simp] theorem State.goto_bitLen (p : Point) (s : State) : (s.goto p).bitLen = s.bitLen := rfl
@[simp] theorem State.goto_byteLen (p : Point) (s : State) : (s.goto p).byteLen = s.byteLen := rfl
@[simp] theorem State.goto_run (p : Point) (s : State) :
    (s.goto p).run = s.run.map fun r => { r with point := p } := rfl
@[simp] theorem State.goto_endFlag (p : Point) (s : State) : (s.goto p).endFlag = s.endFlag := rfl
@[simp] theorem State.goto_inClosed (p : Point) (s : State) : (s.goto p).inClosed = s.inClosed := rfl
@[simp] theorem State.goto_cmdDrop (p : Point) (s : State) : (s.goto p).cmdDrop = s.cmdDrop := rfl
@[simp] theorem State.goto_phase (p : Point) (s : State) : (s.goto p).phase = s.phase := rfl
@[simp] theorem State.goto_freq (p : Point) (s : State) : (s.goto p).freq = s.freq := rfl
@[simp] theorem State.goto_codeVal (p : Point) (s : State) : (s.goto p).codeVal = s.codeVal := rfl
@[simp] theorem State.goto_codeLen (p : Point) (s : State) : (s.goto p).codeLen = s.codeLen := rfl
@[simp] theorem State.goto_dictSym (p : Point) (s : State) : (s.goto p).dictSym = s.dictSym := rfl
@[simp] theorem State.goto_dictLen (p : Point) (s : State) : (s.goto p).dictLen = s.dictLen := rfl
@[simp] theorem State.goto_dictVal (p : Point) (s : State) : (s.goto p).dictVal = s.dictVal := rfl
@[simp] theorem State.goto_freqSpec (p : Point) (s : State) : (s.goto p).freqSpec = s.freqSpec := rfl
@[simp] theorem State.goto_codeSpec (p : Point) (s : State) : (s.goto p).codeSpec = s.codeSpec := rfl
@[simp] theorem State.goto_dictSpec (p : Point) (s : State) : (s.goto p).dictSpec = s.dictSpec := rfl
@[simp] theorem State.goto_chunkBuf (p : Point) (s : State) : (s.goto p).chunkBuf = s.chunkBuf := rfl
@[simp] theorem State.goto_payloadBuf (p : Point) (s : State) : (s.goto p).payloadBuf = s.payloadBuf := rfl
@[simp] theorem State.goto_inFifo (p : Point) (s : State) : (s.goto p).inFifo = s.inFifo := rfl
@[simp] theorem State.goto_outFifo (p : Point) (s : State) : (s.goto p).outFifo = s.outFifo := rfl
@[simp] theorem State.goto_tree (p : Point) (s : State) : (s.goto p).tree = s.tree := rfl
@[simp] theorem State.goto_queue (p : Point) (s : State) : (s.goto p).queue = s.queue := rfl
@[simp] theorem State.goto_cand (p : Point) (s : State) : (s.goto p).cand = s.cand := rfl
@[simp] theorem State.goto_inReset (p : Point) (s : State) : (s.goto p).inReset = s.inReset := rfl
@[simp] theorem State.goto_epoch (p : Point) (s : State) : (s.goto p).epoch = s.epoch := rfl
@[simp] theorem State.goto_free (p : Point) (s : State) : (s.goto p).free = s.free := rfl
@[simp] theorem State.goto_host (p : Point) (s : State) : (s.goto p).host = s.host := rfl
@[simp] theorem State.goto_replies (p : Point) (s : State) : (s.goto p).replies = s.replies := rfl

/-! ### Acceptance -/

@[simp] theorem State.accept_cfg (i : Instr) (s : State) :
    (s.accept i).cfg = s.cfg := by
  rcases h : s.run with _ | r <;> simp [State.accept, h]
@[simp] theorem State.accept_chunkSize (i : Instr) (s : State) :
    (s.accept i).chunkSize = s.chunkSize := by
  rcases h : s.run with _ | r <;> simp [State.accept, h]
@[simp] theorem State.accept_irqEn (i : Instr) (s : State) :
    (s.accept i).irqEn = s.irqEn := by
  rcases h : s.run with _ | r <;> simp [State.accept, h]
@[simp] theorem State.accept_irqStatus (i : Instr) (s : State) :
    (s.accept i).irqStatus = s.irqStatus := by
  rcases h : s.run with _ | r <;> simp [State.accept, h]
@[simp] theorem State.accept_errCode (i : Instr) (s : State) :
    (s.accept i).errCode = s.errCode := by
  rcases h : s.run with _ | r <;> simp [State.accept, h]
@[simp] theorem State.accept_errInfo (i : Instr) (s : State) :
    (s.accept i).errInfo = s.errInfo := by
  rcases h : s.run with _ | r <;> simp [State.accept, h]
@[simp] theorem State.accept_chunkCount (i : Instr) (s : State) :
    (s.accept i).chunkCount = s.chunkCount := by
  rcases h : s.run with _ | r <;> simp [State.accept, h]
@[simp] theorem State.accept_inCount (i : Instr) (s : State) :
    (s.accept i).inCount = s.inCount := by
  rcases h : s.run with _ | r <;> simp [State.accept, h]
@[simp] theorem State.accept_outCount (i : Instr) (s : State) :
    (s.accept i).outCount = s.outCount := by
  rcases h : s.run with _ | r <;> simp [State.accept, h]
@[simp] theorem State.accept_curLen (i : Instr) (s : State) :
    (s.accept i).curLen = s.curLen := by
  rcases h : s.run with _ | r <;> simp [State.accept, h]
@[simp] theorem State.accept_dictCount (i : Instr) (s : State) :
    (s.accept i).dictCount = s.dictCount := by
  rcases h : s.run with _ | r <;> simp [State.accept, h]
@[simp] theorem State.accept_bitLen (i : Instr) (s : State) :
    (s.accept i).bitLen = s.bitLen := by
  rcases h : s.run with _ | r <;> simp [State.accept, h]
@[simp] theorem State.accept_byteLen (i : Instr) (s : State) :
    (s.accept i).byteLen = s.byteLen := by
  rcases h : s.run with _ | r <;> simp [State.accept, h]
@[simp] theorem State.accept_run (i : Instr) (s : State) :
    (s.accept i).run = some (s.run.getD { word := encode i, point := .start }) := by
  rcases h : s.run with _ | r <;> simp [State.accept, h]
@[simp] theorem State.accept_endFlag (i : Instr) (s : State) :
    (s.accept i).endFlag = s.endFlag := by
  rcases h : s.run with _ | r <;> simp [State.accept, h]
@[simp] theorem State.accept_inClosed (i : Instr) (s : State) :
    (s.accept i).inClosed = s.inClosed := by
  rcases h : s.run with _ | r <;> simp [State.accept, h]
@[simp] theorem State.accept_cmdDrop (i : Instr) (s : State) :
    (s.accept i).cmdDrop = s.cmdDrop := by
  rcases h : s.run with _ | r <;> simp [State.accept, h]
@[simp] theorem State.accept_phase (i : Instr) (s : State) :
    (s.accept i).phase = s.phase := by
  rcases h : s.run with _ | r <;> simp [State.accept, h]
@[simp] theorem State.accept_freq (i : Instr) (s : State) :
    (s.accept i).freq = s.freq := by
  rcases h : s.run with _ | r <;> simp [State.accept, h]
@[simp] theorem State.accept_codeVal (i : Instr) (s : State) :
    (s.accept i).codeVal = s.codeVal := by
  rcases h : s.run with _ | r <;> simp [State.accept, h]
@[simp] theorem State.accept_codeLen (i : Instr) (s : State) :
    (s.accept i).codeLen = s.codeLen := by
  rcases h : s.run with _ | r <;> simp [State.accept, h]
@[simp] theorem State.accept_dictSym (i : Instr) (s : State) :
    (s.accept i).dictSym = s.dictSym := by
  rcases h : s.run with _ | r <;> simp [State.accept, h]
@[simp] theorem State.accept_dictLen (i : Instr) (s : State) :
    (s.accept i).dictLen = s.dictLen := by
  rcases h : s.run with _ | r <;> simp [State.accept, h]
@[simp] theorem State.accept_dictVal (i : Instr) (s : State) :
    (s.accept i).dictVal = s.dictVal := by
  rcases h : s.run with _ | r <;> simp [State.accept, h]
@[simp] theorem State.accept_freqSpec (i : Instr) (s : State) :
    (s.accept i).freqSpec = s.freqSpec := by
  rcases h : s.run with _ | r <;> simp [State.accept, h]
@[simp] theorem State.accept_codeSpec (i : Instr) (s : State) :
    (s.accept i).codeSpec = s.codeSpec := by
  rcases h : s.run with _ | r <;> simp [State.accept, h]
@[simp] theorem State.accept_dictSpec (i : Instr) (s : State) :
    (s.accept i).dictSpec = s.dictSpec := by
  rcases h : s.run with _ | r <;> simp [State.accept, h]
@[simp] theorem State.accept_chunkBuf (i : Instr) (s : State) :
    (s.accept i).chunkBuf = s.chunkBuf := by
  rcases h : s.run with _ | r <;> simp [State.accept, h]
@[simp] theorem State.accept_payloadBuf (i : Instr) (s : State) :
    (s.accept i).payloadBuf = s.payloadBuf := by
  rcases h : s.run with _ | r <;> simp [State.accept, h]
@[simp] theorem State.accept_inFifo (i : Instr) (s : State) :
    (s.accept i).inFifo = s.inFifo := by
  rcases h : s.run with _ | r <;> simp [State.accept, h]
@[simp] theorem State.accept_outFifo (i : Instr) (s : State) :
    (s.accept i).outFifo = s.outFifo := by
  rcases h : s.run with _ | r <;> simp [State.accept, h]
@[simp] theorem State.accept_tree (i : Instr) (s : State) :
    (s.accept i).tree = s.tree := by
  rcases h : s.run with _ | r <;> simp [State.accept, h]
@[simp] theorem State.accept_queue (i : Instr) (s : State) :
    (s.accept i).queue = s.queue := by
  rcases h : s.run with _ | r <;> simp [State.accept, h]
@[simp] theorem State.accept_cand (i : Instr) (s : State) :
    (s.accept i).cand = s.cand := by
  rcases h : s.run with _ | r <;> simp [State.accept, h]
@[simp] theorem State.accept_inReset (i : Instr) (s : State) :
    (s.accept i).inReset = s.inReset := by
  rcases h : s.run with _ | r <;> simp [State.accept, h]
@[simp] theorem State.accept_epoch (i : Instr) (s : State) :
    (s.accept i).epoch = s.epoch := by
  rcases h : s.run with _ | r <;> simp [State.accept, h]
@[simp] theorem State.accept_free (i : Instr) (s : State) :
    (s.accept i).free = s.free := by
  rcases h : s.run with _ | r <;> simp [State.accept, h]
@[simp] theorem State.accept_host (i : Instr) (s : State) :
    (s.accept i).host = s.host := by
  rcases h : s.run with _ | r <;> simp [State.accept, h]
@[simp] theorem State.accept_replies (i : Instr) (s : State) :
    (s.accept i).replies = s.replies := by
  rcases h : s.run with _ | r <;> simp [State.accept, h]

/-! ### The counter of free values -/

@[simp] theorem State.tick_cfg (s : State) : (s.tick).cfg = s.cfg := rfl
@[simp] theorem State.tick_chunkSize (s : State) : (s.tick).chunkSize = s.chunkSize := rfl
@[simp] theorem State.tick_irqEn (s : State) : (s.tick).irqEn = s.irqEn := rfl
@[simp] theorem State.tick_irqStatus (s : State) : (s.tick).irqStatus = s.irqStatus := rfl
@[simp] theorem State.tick_errCode (s : State) : (s.tick).errCode = s.errCode := rfl
@[simp] theorem State.tick_errInfo (s : State) : (s.tick).errInfo = s.errInfo := rfl
@[simp] theorem State.tick_chunkCount (s : State) : (s.tick).chunkCount = s.chunkCount := rfl
@[simp] theorem State.tick_inCount (s : State) : (s.tick).inCount = s.inCount := rfl
@[simp] theorem State.tick_outCount (s : State) : (s.tick).outCount = s.outCount := rfl
@[simp] theorem State.tick_curLen (s : State) : (s.tick).curLen = s.curLen := rfl
@[simp] theorem State.tick_dictCount (s : State) : (s.tick).dictCount = s.dictCount := rfl
@[simp] theorem State.tick_bitLen (s : State) : (s.tick).bitLen = s.bitLen := rfl
@[simp] theorem State.tick_byteLen (s : State) : (s.tick).byteLen = s.byteLen := rfl
@[simp] theorem State.tick_run (s : State) : (s.tick).run = s.run := rfl
@[simp] theorem State.tick_endFlag (s : State) : (s.tick).endFlag = s.endFlag := rfl
@[simp] theorem State.tick_inClosed (s : State) : (s.tick).inClosed = s.inClosed := rfl
@[simp] theorem State.tick_cmdDrop (s : State) : (s.tick).cmdDrop = s.cmdDrop := rfl
@[simp] theorem State.tick_phase (s : State) : (s.tick).phase = s.phase := rfl
@[simp] theorem State.tick_freq (s : State) : (s.tick).freq = s.freq := rfl
@[simp] theorem State.tick_codeVal (s : State) : (s.tick).codeVal = s.codeVal := rfl
@[simp] theorem State.tick_codeLen (s : State) : (s.tick).codeLen = s.codeLen := rfl
@[simp] theorem State.tick_dictSym (s : State) : (s.tick).dictSym = s.dictSym := rfl
@[simp] theorem State.tick_dictLen (s : State) : (s.tick).dictLen = s.dictLen := rfl
@[simp] theorem State.tick_dictVal (s : State) : (s.tick).dictVal = s.dictVal := rfl
@[simp] theorem State.tick_freqSpec (s : State) : (s.tick).freqSpec = s.freqSpec := rfl
@[simp] theorem State.tick_codeSpec (s : State) : (s.tick).codeSpec = s.codeSpec := rfl
@[simp] theorem State.tick_dictSpec (s : State) : (s.tick).dictSpec = s.dictSpec := rfl
@[simp] theorem State.tick_chunkBuf (s : State) : (s.tick).chunkBuf = s.chunkBuf := rfl
@[simp] theorem State.tick_payloadBuf (s : State) : (s.tick).payloadBuf = s.payloadBuf := rfl
@[simp] theorem State.tick_inFifo (s : State) : (s.tick).inFifo = s.inFifo := rfl
@[simp] theorem State.tick_outFifo (s : State) : (s.tick).outFifo = s.outFifo := rfl
@[simp] theorem State.tick_tree (s : State) : (s.tick).tree = s.tree := rfl
@[simp] theorem State.tick_queue (s : State) : (s.tick).queue = s.queue := rfl
@[simp] theorem State.tick_cand (s : State) : (s.tick).cand = s.cand := rfl
@[simp] theorem State.tick_inReset (s : State) : (s.tick).inReset = s.inReset := rfl
@[simp] theorem State.tick_epoch (s : State) : (s.tick).epoch = s.epoch := rfl
@[simp] theorem State.tick_free (s : State) : (s.tick).free = s.free + 1 := rfl
@[simp] theorem State.tick_host (s : State) : (s.tick).host = s.host := rfl
@[simp] theorem State.tick_replies (s : State) : (s.tick).replies = s.replies := rfl

/-! ### A buffer -/

@[simp] theorem State.setBuf_cfg (b : Buf) (m : Memory) (s : State) :
    (s.setBuf b m).cfg = s.cfg := by cases b <;> rfl
@[simp] theorem State.setBuf_chunkSize (b : Buf) (m : Memory) (s : State) :
    (s.setBuf b m).chunkSize = s.chunkSize := by cases b <;> rfl
@[simp] theorem State.setBuf_irqEn (b : Buf) (m : Memory) (s : State) :
    (s.setBuf b m).irqEn = s.irqEn := by cases b <;> rfl
@[simp] theorem State.setBuf_irqStatus (b : Buf) (m : Memory) (s : State) :
    (s.setBuf b m).irqStatus = s.irqStatus := by cases b <;> rfl
@[simp] theorem State.setBuf_errCode (b : Buf) (m : Memory) (s : State) :
    (s.setBuf b m).errCode = s.errCode := by cases b <;> rfl
@[simp] theorem State.setBuf_errInfo (b : Buf) (m : Memory) (s : State) :
    (s.setBuf b m).errInfo = s.errInfo := by cases b <;> rfl
@[simp] theorem State.setBuf_chunkCount (b : Buf) (m : Memory) (s : State) :
    (s.setBuf b m).chunkCount = s.chunkCount := by cases b <;> rfl
@[simp] theorem State.setBuf_inCount (b : Buf) (m : Memory) (s : State) :
    (s.setBuf b m).inCount = s.inCount := by cases b <;> rfl
@[simp] theorem State.setBuf_outCount (b : Buf) (m : Memory) (s : State) :
    (s.setBuf b m).outCount = s.outCount := by cases b <;> rfl
@[simp] theorem State.setBuf_curLen (b : Buf) (m : Memory) (s : State) :
    (s.setBuf b m).curLen = s.curLen := by cases b <;> rfl
@[simp] theorem State.setBuf_dictCount (b : Buf) (m : Memory) (s : State) :
    (s.setBuf b m).dictCount = s.dictCount := by cases b <;> rfl
@[simp] theorem State.setBuf_bitLen (b : Buf) (m : Memory) (s : State) :
    (s.setBuf b m).bitLen = s.bitLen := by cases b <;> rfl
@[simp] theorem State.setBuf_byteLen (b : Buf) (m : Memory) (s : State) :
    (s.setBuf b m).byteLen = s.byteLen := by cases b <;> rfl
@[simp] theorem State.setBuf_run (b : Buf) (m : Memory) (s : State) :
    (s.setBuf b m).run = s.run := by cases b <;> rfl
@[simp] theorem State.setBuf_endFlag (b : Buf) (m : Memory) (s : State) :
    (s.setBuf b m).endFlag = s.endFlag := by cases b <;> rfl
@[simp] theorem State.setBuf_inClosed (b : Buf) (m : Memory) (s : State) :
    (s.setBuf b m).inClosed = s.inClosed := by cases b <;> rfl
@[simp] theorem State.setBuf_cmdDrop (b : Buf) (m : Memory) (s : State) :
    (s.setBuf b m).cmdDrop = s.cmdDrop := by cases b <;> rfl
@[simp] theorem State.setBuf_phase (b : Buf) (m : Memory) (s : State) :
    (s.setBuf b m).phase = s.phase := by cases b <;> rfl
@[simp] theorem State.setBuf_freq (b : Buf) (m : Memory) (s : State) :
    (s.setBuf b m).freq = s.freq := by cases b <;> rfl
@[simp] theorem State.setBuf_codeVal (b : Buf) (m : Memory) (s : State) :
    (s.setBuf b m).codeVal = s.codeVal := by cases b <;> rfl
@[simp] theorem State.setBuf_codeLen (b : Buf) (m : Memory) (s : State) :
    (s.setBuf b m).codeLen = s.codeLen := by cases b <;> rfl
@[simp] theorem State.setBuf_dictSym (b : Buf) (m : Memory) (s : State) :
    (s.setBuf b m).dictSym = s.dictSym := by cases b <;> rfl
@[simp] theorem State.setBuf_dictLen (b : Buf) (m : Memory) (s : State) :
    (s.setBuf b m).dictLen = s.dictLen := by cases b <;> rfl
@[simp] theorem State.setBuf_dictVal (b : Buf) (m : Memory) (s : State) :
    (s.setBuf b m).dictVal = s.dictVal := by cases b <;> rfl
@[simp] theorem State.setBuf_freqSpec (b : Buf) (m : Memory) (s : State) :
    (s.setBuf b m).freqSpec = s.freqSpec := by cases b <;> rfl
@[simp] theorem State.setBuf_codeSpec (b : Buf) (m : Memory) (s : State) :
    (s.setBuf b m).codeSpec = s.codeSpec := by cases b <;> rfl
@[simp] theorem State.setBuf_dictSpec (b : Buf) (m : Memory) (s : State) :
    (s.setBuf b m).dictSpec = s.dictSpec := by cases b <;> rfl
@[simp] theorem State.setBuf_chunkBuf (b : Buf) (m : Memory) (s : State) :
    (s.setBuf b m).chunkBuf = if b = .chunk then m else s.chunkBuf := by cases b <;> rfl
@[simp] theorem State.setBuf_payloadBuf (b : Buf) (m : Memory) (s : State) :
    (s.setBuf b m).payloadBuf = if b = .payload then m else s.payloadBuf := by cases b <;> rfl
@[simp] theorem State.setBuf_inFifo (b : Buf) (m : Memory) (s : State) :
    (s.setBuf b m).inFifo = s.inFifo := by cases b <;> rfl
@[simp] theorem State.setBuf_outFifo (b : Buf) (m : Memory) (s : State) :
    (s.setBuf b m).outFifo = s.outFifo := by cases b <;> rfl
@[simp] theorem State.setBuf_tree (b : Buf) (m : Memory) (s : State) :
    (s.setBuf b m).tree = s.tree := by cases b <;> rfl
@[simp] theorem State.setBuf_queue (b : Buf) (m : Memory) (s : State) :
    (s.setBuf b m).queue = s.queue := by cases b <;> rfl
@[simp] theorem State.setBuf_cand (b : Buf) (m : Memory) (s : State) :
    (s.setBuf b m).cand = s.cand := by cases b <;> rfl
@[simp] theorem State.setBuf_inReset (b : Buf) (m : Memory) (s : State) :
    (s.setBuf b m).inReset = s.inReset := by cases b <;> rfl
@[simp] theorem State.setBuf_epoch (b : Buf) (m : Memory) (s : State) :
    (s.setBuf b m).epoch = s.epoch := by cases b <;> rfl
@[simp] theorem State.setBuf_free (b : Buf) (m : Memory) (s : State) :
    (s.setBuf b m).free = s.free := by cases b <;> rfl
@[simp] theorem State.setBuf_host (b : Buf) (m : Memory) (s : State) :
    (s.setBuf b m).host = s.host := by cases b <;> rfl
@[simp] theorem State.setBuf_replies (b : Buf) (m : Memory) (s : State) :
    (s.setBuf b m).replies = s.replies := by cases b <;> rfl

/-! ### A dictionary entry (R243) -/

@[simp] theorem writeEntry_cfg (i : Nat) (sym L : Byte) (cw : Word) (s : State) :
    (writeEntry i sym L cw s).cfg = s.cfg := rfl
@[simp] theorem writeEntry_chunkSize (i : Nat) (sym L : Byte) (cw : Word) (s : State) :
    (writeEntry i sym L cw s).chunkSize = s.chunkSize := rfl
@[simp] theorem writeEntry_irqEn (i : Nat) (sym L : Byte) (cw : Word) (s : State) :
    (writeEntry i sym L cw s).irqEn = s.irqEn := rfl
@[simp] theorem writeEntry_irqStatus (i : Nat) (sym L : Byte) (cw : Word) (s : State) :
    (writeEntry i sym L cw s).irqStatus = s.irqStatus := rfl
@[simp] theorem writeEntry_errCode (i : Nat) (sym L : Byte) (cw : Word) (s : State) :
    (writeEntry i sym L cw s).errCode = s.errCode := rfl
@[simp] theorem writeEntry_errInfo (i : Nat) (sym L : Byte) (cw : Word) (s : State) :
    (writeEntry i sym L cw s).errInfo = s.errInfo := rfl
@[simp] theorem writeEntry_chunkCount (i : Nat) (sym L : Byte) (cw : Word) (s : State) :
    (writeEntry i sym L cw s).chunkCount = s.chunkCount := rfl
@[simp] theorem writeEntry_inCount (i : Nat) (sym L : Byte) (cw : Word) (s : State) :
    (writeEntry i sym L cw s).inCount = s.inCount := rfl
@[simp] theorem writeEntry_outCount (i : Nat) (sym L : Byte) (cw : Word) (s : State) :
    (writeEntry i sym L cw s).outCount = s.outCount := rfl
@[simp] theorem writeEntry_curLen (i : Nat) (sym L : Byte) (cw : Word) (s : State) :
    (writeEntry i sym L cw s).curLen = s.curLen := rfl
@[simp] theorem writeEntry_dictCount (i : Nat) (sym L : Byte) (cw : Word) (s : State) :
    (writeEntry i sym L cw s).dictCount = s.dictCount := rfl
@[simp] theorem writeEntry_bitLen (i : Nat) (sym L : Byte) (cw : Word) (s : State) :
    (writeEntry i sym L cw s).bitLen = s.bitLen := rfl
@[simp] theorem writeEntry_byteLen (i : Nat) (sym L : Byte) (cw : Word) (s : State) :
    (writeEntry i sym L cw s).byteLen = s.byteLen := rfl
@[simp] theorem writeEntry_run (i : Nat) (sym L : Byte) (cw : Word) (s : State) :
    (writeEntry i sym L cw s).run = s.run := rfl
@[simp] theorem writeEntry_endFlag (i : Nat) (sym L : Byte) (cw : Word) (s : State) :
    (writeEntry i sym L cw s).endFlag = s.endFlag := rfl
@[simp] theorem writeEntry_inClosed (i : Nat) (sym L : Byte) (cw : Word) (s : State) :
    (writeEntry i sym L cw s).inClosed = s.inClosed := rfl
@[simp] theorem writeEntry_cmdDrop (i : Nat) (sym L : Byte) (cw : Word) (s : State) :
    (writeEntry i sym L cw s).cmdDrop = s.cmdDrop := rfl
@[simp] theorem writeEntry_phase (i : Nat) (sym L : Byte) (cw : Word) (s : State) :
    (writeEntry i sym L cw s).phase = s.phase := rfl
@[simp] theorem writeEntry_freq (i : Nat) (sym L : Byte) (cw : Word) (s : State) :
    (writeEntry i sym L cw s).freq = s.freq := rfl
@[simp] theorem writeEntry_codeVal (i : Nat) (sym L : Byte) (cw : Word) (s : State) :
    (writeEntry i sym L cw s).codeVal = s.codeVal := rfl
@[simp] theorem writeEntry_codeLen (i : Nat) (sym L : Byte) (cw : Word) (s : State) :
    (writeEntry i sym L cw s).codeLen = s.codeLen := rfl
@[simp] theorem writeEntry_dictSym (i : Nat) (sym L : Byte) (cw : Word) (s : State) :
    (writeEntry i sym L cw s).dictSym = Table.put s.dictSym i sym := rfl
@[simp] theorem writeEntry_dictLen (i : Nat) (sym L : Byte) (cw : Word) (s : State) :
    (writeEntry i sym L cw s).dictLen = Table.put s.dictLen i (L.setWidth 6) := rfl
@[simp] theorem writeEntry_dictVal (i : Nat) (sym L : Byte) (cw : Word) (s : State) :
    (writeEntry i sym L cw s).dictVal = Table.put s.dictVal i cw := rfl
@[simp] theorem writeEntry_freqSpec (i : Nat) (sym L : Byte) (cw : Word) (s : State) :
    (writeEntry i sym L cw s).freqSpec = s.freqSpec := rfl
@[simp] theorem writeEntry_codeSpec (i : Nat) (sym L : Byte) (cw : Word) (s : State) :
    (writeEntry i sym L cw s).codeSpec = s.codeSpec := rfl
@[simp] theorem writeEntry_dictSpec (i : Nat) (sym L : Byte) (cw : Word) (s : State) :
    (writeEntry i sym L cw s).dictSpec = max s.dictSpec (i + 1) := rfl
@[simp] theorem writeEntry_chunkBuf (i : Nat) (sym L : Byte) (cw : Word) (s : State) :
    (writeEntry i sym L cw s).chunkBuf = s.chunkBuf := rfl
@[simp] theorem writeEntry_payloadBuf (i : Nat) (sym L : Byte) (cw : Word) (s : State) :
    (writeEntry i sym L cw s).payloadBuf = s.payloadBuf := rfl
@[simp] theorem writeEntry_inFifo (i : Nat) (sym L : Byte) (cw : Word) (s : State) :
    (writeEntry i sym L cw s).inFifo = s.inFifo := rfl
@[simp] theorem writeEntry_outFifo (i : Nat) (sym L : Byte) (cw : Word) (s : State) :
    (writeEntry i sym L cw s).outFifo = s.outFifo := rfl
@[simp] theorem writeEntry_tree (i : Nat) (sym L : Byte) (cw : Word) (s : State) :
    (writeEntry i sym L cw s).tree = s.tree := rfl
@[simp] theorem writeEntry_queue (i : Nat) (sym L : Byte) (cw : Word) (s : State) :
    (writeEntry i sym L cw s).queue = s.queue := rfl
@[simp] theorem writeEntry_cand (i : Nat) (sym L : Byte) (cw : Word) (s : State) :
    (writeEntry i sym L cw s).cand = s.cand := rfl
@[simp] theorem writeEntry_inReset (i : Nat) (sym L : Byte) (cw : Word) (s : State) :
    (writeEntry i sym L cw s).inReset = s.inReset := rfl
@[simp] theorem writeEntry_epoch (i : Nat) (sym L : Byte) (cw : Word) (s : State) :
    (writeEntry i sym L cw s).epoch = s.epoch := rfl
@[simp] theorem writeEntry_free (i : Nat) (sym L : Byte) (cw : Word) (s : State) :
    (writeEntry i sym L cw s).free = s.free := rfl
@[simp] theorem writeEntry_host (i : Nat) (sym L : Byte) (cw : Word) (s : State) :
    (writeEntry i sym L cw s).host = s.host := rfl
@[simp] theorem writeEntry_replies (i : Nat) (sym L : Byte) (cw : Word) (s : State) :
    (writeEntry i sym L cw s).replies = s.replies := rfl

end Sys2Proof.Machine
end

