-- ==== Sys2Proof/Laws/Memory.lean ====
section
/-! SUPPORT. The internal buffers: canonical form, and what a read after a write gives (spec/20_memory.md R80). -/

namespace Sys2Proof.Machine

/-! ### The canonical form -/

/-- In canonical form, the first index is below every other one. -/
theorem Memory.head_lt_of_wf {c d : Host.Cell} {m : Memory} (h : Memory.wf (c :: m) = true) (hd : d ∈ m) :
    c.1 < d.1 := by
  induction m generalizing c with
  | nil => cases hd
  | cons e m ih =>
    simp only [Memory.wf, Bool.and_eq_true, decide_eq_true_eq] at h
    rcases List.mem_cons.mp hd with rfl | hd
    · exact h.1
    · exact Nat.lt_trans h.1 (ih h.2 hd)

theorem Memory.wf_tail {c : Host.Cell} {m : Memory} (h : Memory.wf (c :: m) = true) :
    Memory.wf m = true := by
  cases m with
  | nil => rfl
  | cons d m => simp only [Memory.wf, Bool.and_eq_true] at h; exact h.2

/-- A canonical form below a smaller first index. -/
theorem Memory.wf_cons_of_lt {c : Host.Cell} {m : Memory} (h : Memory.wf m = true)
    (hlt : ∀ d ∈ m, c.1 < d.1) : Memory.wf (c :: m) = true := by
  cases m with
  | nil => rfl
  | cons d m => simp [Memory.wf, h, hlt d]

/-- The indexes listed after a write: the ones listed before and the written one. -/
theorem Memory.index_of_mem_insert {m : Memory} {i : Nat} {v : Byte} {c : Host.Cell}
    (h : c ∈ Memory.insert m i v) : c = (i, v) ∨ c ∈ m := by
  induction m with
  | nil => simpa [Memory.insert] using h
  | cons e m ih =>
    unfold Memory.insert at h
    split_ifs at h
    · simpa using h
    · rcases List.mem_cons.mp h with h | h
      · exact .inl h
      · exact .inr (List.mem_cons_of_mem _ h)
    · rcases List.mem_cons.mp h with h | h
      · exact .inr (h ▸ List.mem_cons_self)
      · exact (ih h).imp id (List.mem_cons_of_mem _)

/-- A write keeps the canonical form. -/
theorem Memory.wf_insert {m : Memory} (h : Memory.wf m = true) (i : Nat) (v : Byte) :
    Memory.wf (Memory.insert m i v) = true := by
  induction m with
  | nil => rfl
  | cons e m ih =>
    unfold Memory.insert
    split_ifs with h1 h2
    · refine Memory.wf_cons_of_lt h fun d hd => ?_
      rcases List.mem_cons.mp hd with rfl | hd
      · exact h1
      · exact Nat.lt_trans h1 (Memory.head_lt_of_wf h hd)
    · exact Memory.wf_cons_of_lt (Memory.wf_tail h) fun d hd => by
        have := Memory.head_lt_of_wf h hd; subst h2; exact this
    · refine Memory.wf_cons_of_lt (ih (Memory.wf_tail h)) fun d hd => ?_
      rcases Memory.index_of_mem_insert hd with rfl | hd
      · show e.1 < i; omega
      · exact Memory.head_lt_of_wf h hd

/-! ### A read after a write -/

@[simp] theorem Memory.lookup_insert_self (m : Memory) (i : Nat) (v : Byte) :
    (Memory.insert m i v).lookup i = some v := by
  induction m with
  | nil => simp [Memory.insert, Memory.lookup]
  | cons e m ih =>
    unfold Memory.insert
    split_ifs with h1 h2
    · simp [Memory.lookup]
    · simp [Memory.lookup]
    · rw [Memory.lookup, if_neg (by omega), ih]

theorem Memory.lookup_insert_of_ne (m : Memory) {i j : Nat} (v : Byte) (hne : j ≠ i) :
    (Memory.insert m i v).lookup j = m.lookup j := by
  induction m with
  | nil => simp [Memory.insert, Memory.lookup, hne.symm]
  | cons e m ih =>
    unfold Memory.insert
    split_ifs with h1 h2
    · rw [Memory.lookup, if_neg hne.symm]
    · subst h2; rw [Memory.lookup, if_neg hne.symm, Memory.lookup, if_neg hne.symm]
    · rw [Memory.lookup, Memory.lookup, ih]

/-! ### The buffers of the state -/

@[simp] theorem State.buf_setBuf_self (b : Buf) (m : Memory) (s : State) : (s.setBuf b m).buf b = m := by
  cases b <;> rfl

theorem State.buf_setBuf_of_ne {b c : Buf} (m : Memory) (s : State) (h : c ≠ b) :
    (s.setBuf b m).buf c = s.buf c := by
  cases b <;> cases c <;> first | rfl | exact absurd rfl h

/-- All that a MemRead can do. -/
theorem memRead_ok {b : Buf} {i : Nat} {s : State} {v : Byte} :
    memRead b i s = .ok v ↔ i < bufSize s.cfg b ∧ v = s.bufByte b i := by
  unfold memRead; split_ifs with h <;> simp [h, eq_comm]

/-- All that a MemWrite can do: it succeeds exactly on an index the buffer has, and then lists the byte there. -/
theorem memWrite_ok {b : Buf} {i : Nat} {v : Byte} {s t : State} :
    memWrite b i v s = .ok t ↔ i < bufSize s.cfg b ∧ t = s.setBuf b ((s.buf b).insert i v) := by
  unfold memWrite; split_ifs with h <;> simp [h, eq_comm]

/-- The written byte reads back. -/
theorem bufByte_memWrite_self {b : Buf} {i : Nat} {v : Byte} {s t : State} (h : memWrite b i v s = .ok t) :
    t.bufByte b i = v := by
  obtain ⟨-, rfl⟩ := memWrite_ok.mp h
  simp [State.bufByte]

/-- Every other byte of both buffers reads as before. -/
theorem bufByte_memWrite_of_ne {b c : Buf} {i j : Nat} {v : Byte} {s t : State} (h : memWrite b i v s = .ok t)
    (hne : c ≠ b ∨ j ≠ i) : t.bufByte c j = s.bufByte c j := by
  obtain ⟨-, rfl⟩ := memWrite_ok.mp h
  by_cases hc : c = b
  · subst hc
    simp [State.bufByte, Memory.lookup_insert_of_ne _ _ (hne.resolve_left fun h => h rfl)]
  · simp [State.bufByte, State.buf_setBuf_of_ne _ _ hc]

/-- A MemWrite keeps both buffers canonical. -/
theorem wf_memWrite {b : Buf} {i : Nat} {v : Byte} {s t : State} (h : memWrite b i v s = .ok t)
    (hs : ∀ c, Memory.wf (s.buf c) = true) (c : Buf) : Memory.wf (t.buf c) = true := by
  obtain ⟨-, rfl⟩ := memWrite_ok.mp h
  by_cases hc : c = b
  · subst hc; simpa using Memory.wf_insert (hs c) i v
  · rw [State.buf_setBuf_of_ne _ _ hc]; exact hs c

/-- Reset leaves canonical buffers. -/
theorem wf_reset (p : Params) (c : Buf) : Memory.wf ((State.resetOf p).buf c) = true := by
  cases c <;> rfl

/-- Reading `n` bytes from index `i` on succeeds when all of them exist. -/
theorem memReadList_ok {b : Buf} {s : State} {n i : Nat} (h : i + n ≤ bufSize s.cfg b) :
    memReadList b s n i = .ok ((List.range' i n).map (s.bufByte b)) := by
  induction n generalizing i with
  | zero => rfl
  | succ n ih =>
    rw [memReadList, memRead, if_pos (by omega)]
    simp only []
    rw [ih (by omega)]
    simp [List.range'_succ]

end Sys2Proof.Machine
end

