-- ==== Sys2Proof/Laws/Tables.lean ====
section
/-! SUPPORT. The tables, and the conversions between bit strings and numbers (spec/00_scope.md R17). -/

namespace Sys2Proof.Machine

/-! ### Tables -/

theorem Table.entry_put_self {n : Nat} (t : Table (BitVec n)) {i : Nat} (v : BitVec n) (h : i < 256) :
    Table.entry (Table.put t i v) i = v := by
  simp [Table.entry, Table.put, h]

theorem Table.entry_put_of_ne {n : Nat} (t : Table (BitVec n)) {i j : Nat} (v : BitVec n) (h : j ≠ i) :
    Table.entry (Table.put t i v) j = Table.entry t j := by
  unfold Table.entry Table.put
  split_ifs with hj
  · rw [Vector.getElem_setIfInBounds_ne hj h.symm]
  · rfl

@[simp] theorem Table.entry_zero (n i : Nat) : Table.entry (Table.zero n) i = 0#n := by
  unfold Table.entry Table.zero
  split_ifs <;> simp

/-! ### The table as a list -/

theorem Table.toList_eq {n : Nat} (t : Table (BitVec n)) : t.toList = (List.range 256).map (Table.entry t) := by
  apply List.ext_getElem
  · simp
  · intro i h1 h2
    have : i < 256 := by simpa using h1
    simp [Table.entry, this]

/-- `[ s in 0..255 : FREQ[s] > 0 ]`. -/
theorem present_eq (freq : Table Word) :
    present freq = (List.range 256).filter (fun s => Table.entry freq s ≠ 0#32) := by
  have h : (List.range 256).zipIdx = (List.range 256).map fun i => (i, i) := by apply List.ext_getElem <;> simp
  rw [present, Table.toList_eq, List.zipIdx_map, List.filter_map, List.map_map, h, List.filter_map, List.map_map]
  simp [Function.comp_def]

/-- A symbol is present when its frequency is not 0. -/
theorem mem_present {freq : Table Word} {s : Nat} :
    s ∈ present freq ↔ s < 256 ∧ Table.entry freq s ≠ 0#32 := by
  simp [present_eq]

theorem present_sorted (freq : Table Word) : (present freq).Pairwise (· < ·) := by
  rw [present_eq]
  exact List.Pairwise.filter _ List.pairwise_lt_range

theorem present_length_le (freq : Table Word) : (present freq).length ≤ 256 := by
  rw [present_eq]
  exact (List.length_filter_le _ _).trans_eq List.length_range

/-- Σ over s in 0..255 of FREQ[s] × CODE_LEN[s] (spec/41_encoder.md R170). -/
theorem payloadBits_eq (freq : Table Word) (codeLen : Table (BitVec 6)) :
    payloadBits freq codeLen =
      ((List.range 256).map fun s => (Table.entry freq s).toNat * (Table.entry codeLen s).toNat).sum := by
  rw [payloadBits, Table.toList_eq, Table.toList_eq, List.zipWith_map, List.zipWith_self]

/-! ### Bit strings -/

theorem bitsVal_append_single (s : Bits) (b : Bool) : bitsVal (s ++ [b]) = 2 * bitsVal s + b.toNat := by
  simp [bitsVal]

/-- val(s) < 2^len(s). -/
theorem bitsVal_lt (s : Bits) : bitsVal s < 2 ^ s.length := by
  induction s using List.reverseRecOn with
  | nil => simp [bitsVal]
  | append_singleton s b ih =>
    rw [bitsVal_append_single, List.length_append, List.length_singleton, Nat.pow_succ]
    cases b <;> simp <;> omega

@[simp] theorem bitsOf_length (L : Nat) (v : Word) : (bitsOf L v).length = L := by simp [bitsOf]

@[simp] theorem be32_length (v : Word) : (be32 v).length = 4 := rfl

/-- from_be32 reads what be32 wrote. -/
theorem fromBe32_be32 (v : Word) :
    fromBe32 (v.extractLsb' 24 8) (v.extractLsb' 16 8) (v.extractLsb' 8 8) (v.extractLsb' 0 8) = v := by
  apply BitVec.eq_of_getLsbD_eq
  intro i hi
  simp only [fromBe32, BitVec.getLsbD_append, BitVec.getLsbD_extractLsb']
  rcases Nat.lt_or_ge i 8 with h | h
  · simp [h]
  rcases Nat.lt_or_ge i 16 with h' | h'
  · simp [Nat.not_lt.mpr h, show i - 8 < 8 by omega, show 8 + (i - 8) = i by omega]
  rcases Nat.lt_or_ge i 24 with h'' | h''
  · simp [Nat.not_lt.mpr h, show ¬ i - 8 < 8 by omega, show i - 8 - 8 < 8 by omega,
      show 16 + (i - 8 - 8) = i by omega]
  · simp [Nat.not_lt.mpr h, show ¬ i - 8 < 8 by omega, show ¬ i - 8 - 8 < 8 by omega,
      show i - 8 - 8 - 8 < 8 by omega, show 24 + (i - 8 - 8 - 8) = i by omega]

end Sys2Proof.Machine
end

