-- ==== Sys2Proof/Laws/Engine.lean ====
section
/-! SUPPORT. What each shared operation of the engine can do, said once. -/

namespace Sys2Proof.Machine

/-! ### The streams (R84, R85) -/

/-- All that an InPop can do: a byte, EOF, or a hold. -/
theorem inPop_cases (s : State) :
    (∃ b rest, s.inFifo = b :: rest ∧
      inPop s = some (some b, { s with inFifo := rest, inCount := s.inCount + 1 })) ∨
    (s.inFifo = [] ∧ s.inClosed = true ∧ inPop s = some (none, s)) ∨
    (s.inFifo = [] ∧ s.inClosed = false ∧ inPop s = none) := by
  unfold inPop
  split
  · next b rest h => exact .inl ⟨b, rest, h, rfl⟩
  · next h => rcases hc : s.inClosed <;> simp [h]

/-- All that an OutPush can do: append the byte, or a hold. -/
theorem outPush_cases (b : Byte) (s : State) :
    (s.outFifo.length < s.cfg.outDepth ∧
      outPush b s = some { s with outFifo := s.outFifo ++ [b], outCount := s.outCount + 1 }) ∨
    (s.cfg.outDepth ≤ s.outFifo.length ∧ outPush b s = none) := by
  unfold outPush
  split_ifs with h
  · exact .inl ⟨h, rfl⟩
  · exact .inr ⟨Nat.not_lt.mp h, rfl⟩

/-! ### The end of an engine step (R153) -/

@[simp] theorem finishStep_done (s0 s : State) : finishStep s0 (.done s) = .next s.complete := rfl

@[simp] theorem finishStep_error (s0 s : State) (c : ErrCode) :
    finishStep s0 (.error s c) = .next (s.raiseError c) := rfl

@[simp] theorem finishStep_fault (s0 : State) (f : Fault) : finishStep s0 (.fault f) = .fault f := rfl

theorem finishStep_pop_byte {s0 s : State} {site : PopSite} {b : Byte} {rest : List Byte}
    (h : s.inFifo = b :: rest) :
    finishStep s0 (.pop s site) =
      .next (({ s with inFifo := rest, inCount := s.inCount + 1 } : State).goto (.popped site (some b))) := by
  simp [finishStep, inPop, h]

theorem finishStep_pop_eof {s0 s : State} {site : PopSite} (h : s.inFifo = []) (hc : s.inClosed = true) :
    finishStep s0 (.pop s site) = .next (s.goto (.popped site none)) := by
  simp [finishStep, inPop, h, hc]

theorem finishStep_pop_hold {s0 s : State} {site : PopSite} (h : s.inFifo = []) (hc : s.inClosed = false) :
    finishStep s0 (.pop s site) = .next s0 := by
  simp [finishStep, inPop, h, hc]

theorem finishStep_push {s0 s : State} {site : PushSite} {b : Byte} {rest : List Byte}
    (h : s.outFifo.length < s.cfg.outDepth) :
    finishStep s0 (.push s site b rest) =
      .next (({ s with outFifo := s.outFifo ++ [b], outCount := s.outCount + 1 } : State).goto
        (.pushed site rest)) := by
  simp [finishStep, outPush, h]

theorem finishStep_push_hold {s0 s : State} {site : PushSite} {b : Byte} {rest : List Byte}
    (h : ¬ s.outFifo.length < s.cfg.outDepth) : finishStep s0 (.push s site b rest) = .next s0 := by
  simp [finishStep, outPush, h]

/-- All that an engine step can do. -/
theorem finishStep_next {s0 t : State} {r : Request} (h : finishStep s0 r = .next t) :
    (∃ s site, r = .pop s site ∧
      ((∃ b rest, s.inFifo = b :: rest ∧
          t = ({ s with inFifo := rest, inCount := s.inCount + 1 } : State).goto (.popped site (some b))) ∨
       (s.inFifo = [] ∧ s.inClosed = true ∧ t = s.goto (.popped site none)) ∨
       (s.inFifo = [] ∧ s.inClosed = false ∧ t = s0))) ∨
    (∃ s site b rest, r = .push s site b rest ∧
      ((s.outFifo.length < s.cfg.outDepth ∧
          t = ({ s with outFifo := s.outFifo ++ [b], outCount := s.outCount + 1 } : State).goto
            (.pushed site rest)) ∨
       (s.cfg.outDepth ≤ s.outFifo.length ∧ t = s0))) ∨
    (∃ s, r = .done s ∧ t = s.complete) ∨
    (∃ s c, r = .error s c ∧ t = s.raiseError c) := by
  cases r with
  | pop s site =>
    refine .inl ⟨s, site, rfl, ?_⟩
    rcases inPop_cases s with ⟨b, rest, hf, hp⟩ | ⟨hf, hc, hp⟩ | ⟨hf, hc, hp⟩ <;>
      simp only [finishStep, hp, Host.Outcome.next.injEq] at h <;> subst h
    · exact .inl ⟨b, rest, hf, rfl⟩
    · exact .inr (.inl ⟨hf, hc, rfl⟩)
    · exact .inr (.inr ⟨hf, hc, rfl⟩)
  | push s site b rest =>
    refine .inr (.inl ⟨s, site, b, rest, rfl, ?_⟩)
    rcases outPush_cases b s with ⟨hf, hp⟩ | ⟨hf, hp⟩ <;>
      simp only [finishStep, hp, Host.Outcome.next.injEq] at h <;> subst h
    · exact .inl ⟨hf, rfl⟩
    · exact .inr ⟨hf, rfl⟩
  | done s => exact .inr (.inr (.inl ⟨s, rfl, by simpa using h.symm⟩))
  | error s c => exact .inr (.inr (.inr ⟨s, c, rfl, by simpa using h.symm⟩))
  | fault f => simp at h

/-- An engine step never refuses. -/
theorem finishStep_ne_refused (s0 : State) (r : Request) (x : Refusal) : finishStep s0 r ≠ .refused x := by
  cases r with
  | pop s site => simp only [finishStep]; split <;> simp
  | push s site b rest => simp only [finishStep]; split <;> simp
  | done s => simp
  | error s c => simp
  | fault f => simp

/-- An engine step faults only where the computation does. -/
theorem finishStep_fault_iff {s0 : State} {r : Request} {f : Fault} :
    finishStep s0 r = .fault f ↔ r = .fault f := by
  cases r with
  | pop s site => simp only [finishStep]; split <;> simp
  | push s site b rest => simp only [finishStep]; split <;> simp
  | done s => simp
  | error s c => simp
  | fault g => simp

/-! ### Going on where a Body ends (R151) -/

@[simp] theorem andThen_pop (s : State) (site : PopSite) (k : State → Request) :
    (Request.pop s site).andThen k = .pop s site := rfl
@[simp] theorem andThen_push (s : State) (site : PushSite) (b : Byte) (rest : List Byte)
    (k : State → Request) : (Request.push s site b rest).andThen k = .push s site b rest := rfl
@[simp] theorem andThen_done (s : State) (k : State → Request) : (Request.done s).andThen k = k s := rfl
@[simp] theorem andThen_error (s : State) (c : ErrCode) (k : State → Request) :
    (Request.error s c).andThen k = .error s c := rfl
@[simp] theorem andThen_fault (f : Fault) (k : State → Request) :
    (Request.fault f).andThen k = .fault f := rfl

/-- The end of a step command's Body is the end of the command. -/
@[simp] theorem andThen_atEnd (r : Request) (b : Body) : r.andThen (atEnd b) = r := by
  cases r <;> rfl

@[simp] theorem emit_nil (site : PushSite) (fin : State → Request) (s : State) :
    emit site [] fin s = fin s := rfl
@[simp] theorem emit_cons (site : PushSite) (b : Byte) (rest : List Byte) (fin : State → Request)
    (s : State) : emit site (b :: rest) fin s = .push s site b rest := rfl

/-! ### One engine step of a command, by its position -/

@[simp] theorem accept_of_run {i : Instr} {s : State} {r : Run} (h : s.run = some r) : s.accept i = s := by
  simp [State.accept, h]

theorem accept_of_idle {i : Instr} {s : State} (h : s.run = none) :
    s.accept i = { s with run := some { word := encode i, point := .start } } := by
  simp [State.accept, h]

theorem engineStep_start {i : Instr} {begin : State → Request} {next : Body → State → Request} {s : State}
    {w : Word} (h : s.run = some { word := w, point := .start }) :
    engineStep i begin next s =
      finishStep s (if allowedIn i s.phase then begin s else .error s .sequence) := by
  simp [engineStep, compute, State.point, h]

theorem engineStep_popped {i : Instr} {begin : State → Request} {next : Body → State → Request} {s : State}
    {w : Word} {site : PopSite} {b : Option Byte} (h : s.run = some { word := w, point := .popped site b }) :
    engineStep i begin next s = finishStep s ((afterPop site b s).andThen (next site.body)) := by
  simp [engineStep, compute, State.point, h]

theorem engineStep_pushed {i : Instr} {begin : State → Request} {next : Body → State → Request} {s : State}
    {w : Word} {site : PushSite} {rest : List Byte}
    (h : s.run = some { word := w, point := .pushed site rest }) :
    engineStep i begin next s = finishStep s ((afterPush site rest s).andThen (next site.body)) := by
  simp [engineStep, compute, State.point, h]

/-- No command is refused: `exec` answers a next state, or the fault of a buffer access. -/
theorem exec_ne_refused (i : Instr) (s : State) (x : Refusal) : exec i s ≠ .refused x := by
  cases i <;> exact finishStep_ne_refused _ _ _

/-! ### One step of the machine -/

theorem engineTurn_ok {s : State} {r : Run} {i : Instr} (h : s.run = some r) (hd : decode r.word = .ok i)
    (hr : s.inReset = false) : engineTurn s = exec i s := by
  simp [engineTurn, hr, State.fetch, h, hd]

theorem engineTurn_illegal {s : State} {r : Run} {e : Reject} (h : s.run = some r)
    (hd : decode r.word = .error e) (hr : s.inReset = false) :
    engineTurn s = .next (s.raiseError .illegalCmd) := by
  simp [engineTurn, hr, State.fetch, h, hd]

theorem engineTurn_idle {s : State} (h : s.run = none) : engineTurn s = .next s := by
  simp [engineTurn, State.fetch, h]

theorem engineTurn_inReset {s : State} (h : s.inReset = true) : engineTurn s = .next s := by
  simp [engineTurn, h]

/-- All that a step can do: a host action, or the engine's turn. -/
theorem step_cases (s : State) :
    (s.host = [] ∧ step s = engineTurn s) ∨
    (∃ m rest, s.host = m :: rest ∧
      ((m.ready s = true ∧ m.leavesEngine = false ∧ step s = .next (m.act { s with host := rest })) ∨
       (m.ready s = true ∧ m.leavesEngine = true ∧ step s = engineTurn (m.act { s with host := rest })) ∨
       (m.ready s = false ∧ step s = engineTurn s))) := by
  unfold step
  rcases h : s.host with _ | ⟨m, rest⟩
  · exact .inl ⟨rfl, rfl⟩
  · refine .inr ⟨m, rest, rfl, ?_⟩
    rcases hr : m.ready s <;> rcases hl : m.leavesEngine <;> simp [hr, hl]

end Sys2Proof.Machine
end

