-- ==== Sys2Proof/Laws/PerInstr.lean ====
section
/-! SUPPORT. The family CommandWord: what holds of every command as syntax (spec/30_encoding.md R110, R114). -/

namespace Sys2Proof.Laws.CommandWord

/-- The command is well formed, its word's reserved bits 31:8 are 0, and its opcode's row is the command. -/
def Statement (i : Instr) : Prop :=
  i.wellFormed = true ∧ reservedOf (encode i) = 0#24 ∧ (opcodeOf (encode i), i) ∈ opcodeRows

theorem nop : Statement .nop := by simp [Statement, Instr.wellFormed, reservedOf, opcodeOf, encode, opcodeRows]
theorem clear : Statement .clear := by
  simp [Statement, Instr.wellFormed, reservedOf, opcodeOf, encode, opcodeRows]
theorem encLoad : Statement .encLoad := by
  simp [Statement, Instr.wellFormed, reservedOf, opcodeOf, encode, opcodeRows]
theorem tbBuild : Statement .tbBuild := by
  simp [Statement, Instr.wellFormed, reservedOf, opcodeOf, encode, opcodeRows]
theorem ctGen : Statement .ctGen := by
  simp [Statement, Instr.wellFormed, reservedOf, opcodeOf, encode, opcodeRows]
theorem encEmitDict : Statement .encEmitDict := by
  simp [Statement, Instr.wellFormed, reservedOf, opcodeOf, encode, opcodeRows]
theorem bpPack : Statement .bpPack := by
  simp [Statement, Instr.wellFormed, reservedOf, opcodeOf, encode, opcodeRows]
theorem encChunk : Statement .encChunk := by
  simp [Statement, Instr.wellFormed, reservedOf, opcodeOf, encode, opcodeRows]
theorem encAll : Statement .encAll := by
  simp [Statement, Instr.wellFormed, reservedOf, opcodeOf, encode, opcodeRows]
theorem decReadCount : Statement .decReadCount := by
  simp [Statement, Instr.wellFormed, reservedOf, opcodeOf, encode, opcodeRows]
theorem decReadEntries : Statement .decReadEntries := by
  simp [Statement, Instr.wellFormed, reservedOf, opcodeOf, encode, opcodeRows]
theorem decReadMeta : Statement .decReadMeta := by
  simp [Statement, Instr.wellFormed, reservedOf, opcodeOf, encode, opcodeRows]
theorem buReadPayload : Statement .buReadPayload := by
  simp [Statement, Instr.wellFormed, reservedOf, opcodeOf, encode, opcodeRows]
theorem decDecode : Statement .decDecode := by
  simp [Statement, Instr.wellFormed, reservedOf, opcodeOf, encode, opcodeRows]
theorem decChunk : Statement .decChunk := by
  simp [Statement, Instr.wellFormed, reservedOf, opcodeOf, encode, opcodeRows]
theorem decAll : Statement .decAll := by
  simp [Statement, Instr.wellFormed, reservedOf, opcodeOf, encode, opcodeRows]

end Sys2Proof.Laws.CommandWord
end

