-- ==== Sys2Proof/Laws/Ports.lean ====
section
/-! SUPPORT. Lemmas of the CSR port and of the dispatch: the register at each address of spec/10_state.md R30, what
a write while `rst_n` is asserted does, and the one form every meaning has. -/

namespace Sys2Proof.Machine

/-! ### The register map -/

@[simp] theorem csrAt_id : csrAt 0x0000#16 = .id := rfl
@[simp] theorem csrAt_cmd : csrAt 0x0004#16 = .cmd := rfl
@[simp] theorem csrAt_status : csrAt 0x0008#16 = .status := rfl
@[simp] theorem csrAt_ctrl : csrAt 0x000C#16 = .ctrl := rfl
@[simp] theorem csrAt_chunkSize : csrAt 0x0010#16 = .chunkSize := rfl
@[simp] theorem csrAt_irqEn : csrAt 0x0014#16 = .irqEn := rfl
@[simp] theorem csrAt_irqStatus : csrAt 0x0018#16 = .irqStatus := rfl
@[simp] theorem csrAt_errCode : csrAt 0x001C#16 = .errCode := rfl
@[simp] theorem csrAt_errInfo : csrAt 0x0020#16 = .errInfo := rfl
@[simp] theorem csrAt_inCount : csrAt 0x0028#16 = .inCount := rfl
@[simp] theorem csrAt_outCount : csrAt 0x002C#16 = .outCount := rfl
@[simp] theorem csrAt_maxChunk : csrAt 0x0040#16 = .maxChunk := rfl

/-! ### Reads and writes -/

/-- A write while `rst_n` is asserted is ignored (spec/70_reset_and_hazards.md R350). -/
theorem writeCsr_inReset {a : Addr} {v : Word} {s : State} (h : s.inReset = true) : writeCsr a v s = s := by
  simp [writeCsr, h]

/-- A read advances the counter of free values or changes nothing (spec/20_memory.md R93). -/
theorem readCsr_state (a : Addr) (s : State) : (readCsr a s).2 = s ∨ (readCsr a s).2 = s.tick := by
  unfold readCsr
  split <;> split
  · exact .inr rfl
  · exact .inl rfl
  · exact .inl rfl
  · cases s.busy
    · exact .inl rfl
    · exact .inr rfl

/-- While BUSY = 0 a read changes nothing. -/
theorem readCsr_idle {a : Addr} {s : State} (h : s.busy = false) : (readCsr a s).2 = s := by
  unfold readCsr
  split
  · simp [h]
  · split <;> simp [h]

/-- A read of any register but STATUS whose value is fixed gives that value and changes nothing. -/
theorem readCsr_fixed {a : Addr} {r : Csr} {s : State} (ha : csrAt a = r) (hr : r ≠ .status)
    (h : csrFixed r s = true) : readCsr a s = (csrExact r s, s) := by
  subst ha
  unfold readCsr
  split
  · exact absurd ‹_› hr
  · simp [h]

/-! ### The phase shown while BUSY = 1 -/

/-- The present phase is among the shown ones, so there is always one. -/
theorem phase_mem_shownPhases (s : State) : s.phase ∈ shownPhases s := by
  unfold shownPhases
  split
  · split <;> simp
  · simp

/-- The phase a read of STATUS shows is one of the shown phases, whatever the free choice is. -/
theorem shownPhase_mem (s : State) : shownPhase s ∈ shownPhases s := by
  have h : 0 < (shownPhases s).length := List.length_pos_of_mem (phase_mem_shownPhases s)
  unfold shownPhase
  rw [List.getD_eq_getElem _ _ (Nat.mod_lt _ h)]
  exact List.getElem_mem _

/-! ### The form of every meaning -/

/-- The Body each command begins with. -/
def bodyOf : Instr → State → Request
  | .nop => nopBody
  | .clear => clearBody
  | .encLoad => encLoadStart
  | .tbBuild => tbBuildBody
  | .ctGen => ctGenBody
  | .encEmitDict => emitDictStart
  | .bpPack => packStart
  | .encChunk => fun s => (encLoadStart s).andThen afterLoad
  | .encAll => fun s => (encLoadStart s).andThen afterLoad
  | .decReadCount => readCountStart
  | .decReadEntries => readEntriesStart
  | .decReadMeta => readMetaStart
  | .buReadPayload => payloadStart
  | .decDecode => decodeStart
  | .decChunk => readCountStart
  | .decAll => readCountStart

/-- What follows each Body of each command. -/
def nextOf : Instr → Body → State → Request
  | .nop => atEnd
  | .clear => atEnd
  | .encLoad => atEnd
  | .tbBuild => atEnd
  | .ctGen => atEnd
  | .encEmitDict => atEnd
  | .bpPack => atEnd
  | .encChunk => encChunkNext
  | .encAll => encAllNext
  | .decReadCount => atEnd
  | .decReadEntries => atEnd
  | .decReadMeta => atEnd
  | .buReadPayload => atEnd
  | .decDecode => atEnd
  | .decChunk => decChunkNext
  | .decAll => decAllNext

/-- Every meaning is one engine step of its command (spec/40_control.md R153): cite this instead of unfolding the
sixteen meanings. -/
theorem exec_eq_engineStep (i : Instr) (s : State) : exec i s = engineStep i (bodyOf i) (nextOf i) s := by
  cases i <;> rfl

end Sys2Proof.Machine
end

