-- ==== Sys2Proof/Tests/Slice0.lean ====
section
/-! SUPPORT. The model's own tests: well-formedness, decoding, one step of each command on the examples of
spec/, and a witness for the hypotheses of every statement. -/

namespace Sys2Proof.Tests

-- One theorem after another: hundreds of waiting kernel checks would be as many threads.
set_option Elab.async false

open Sys2Proof Sys2Proof.Machine

/-! ### Helpers -/

/-- A small instance: MAX_CHUNK = 16, both FIFOs 64 bytes deep. -/
def small : State := State.resetOf { maxChunk := 16, inDepth := 64, outDepth := 64 }

/-- The state with command `i` running, at position `p`. -/
def running (i : Instr) (p : Point) (s : State) : State :=
  { s with run := some { word := encode i, point := p } }

/-- The outcome is a next state with the property `p`. -/
def Gives (o : Host.Outcome State Fault Refusal) (p : State → Prop) [DecidablePred p] : Bool :=
  match o with
  | .next t => decide (p t)
  | .fault _ => false
  | .refused _ => false

theorem gives_exists {o : Host.Outcome State Fault Refusal} {p : State → Prop} [DecidablePred p]
    (h : Gives o p = true) : ∃ t, o = .next t ∧ p t := by
  match o, h with
  | .next t, h => exact ⟨t, rfl, of_decide_eq_true h⟩

/-- A table with the given entries, 0 elsewhere. -/
def tableOf {n : Nat} (l : List (Nat × BitVec n)) : Table (BitVec n) :=
  l.foldl (fun t e => Table.put t e.1 e.2) (Table.zero n)

/-- A buffer with the given bytes from index 0 on. -/
def memOf (bs : List Byte) : Memory := bs.zipIdx.map fun e => (e.2, e.1)

/-- The FREQ of the chunk `41 41 41 42` (spec/41_encoder.md R160, example). -/
def freq4 : Table Word := tableOf [(0x41, 3#32), (0x42, 1#32)]

/-- The tree of that FREQ (spec/42_tree_builder.md R200, example). -/
def tree4 : Tree := .node (.leaf 0x41#8 3 0x41) (.leaf 0x42#8 1 0x42) 4 256

/-- The block after ENC_LOAD of that chunk. -/
def loaded : State :=
  { small with
    freq := freq4, freqSpec := true, curLen := 4#32, dictCount := 2#32, phase := .eLoaded
    chunkBuf := memOf [0x41#8, 0x41#8, 0x41#8, 0x42#8] }

/-- The block after TB_BUILD. -/
def built : State := { loaded with phase := .eTree, tree := some tree4, queue := [tree4] }

/-- The block after CT_GEN (spec/41_encoder.md R170, example). -/
def coded : State :=
  { loaded with
    phase := .eCodes, codeSpec := true
    codeLen := tableOf [(0x41, 1#6), (0x42, 1#6)], codeVal := tableOf [(0x42, 1#32)]
    bitLen := 4#32, byteLen := 1#32 }

/-- The block before BP_PACK. -/
def emitted : State := { coded with phase := .eDict }

/-- The record of that chunk (spec/41_encoder.md R180, example). -/
def record4 : List Byte :=
  [0x00#8, 0x00#8, 0x00#8, 0x02#8, 0x41#8, 0x01#8, 0x00#8, 0x00#8, 0x00#8, 0x00#8, 0x42#8, 0x01#8, 0x00#8,
   0x00#8, 0x00#8, 0x01#8, 0x00#8, 0x00#8, 0x00#8, 0x04#8, 0x00#8, 0x00#8, 0x00#8, 0x01#8, 0x10#8]

/-- The block before DEC_DECODE of that record (spec/44_decoder.md R250, example). -/
def received : State :=
  { small with
    phase := .dDecode, dictCount := 2#32, dictSpec := 2
    dictSym := tableOf [(0, 0x41#8), (1, 0x42#8)], dictLen := tableOf [(0, 1#6), (1, 1#6)]
    dictVal := tableOf [(1, 1#32)], bitLen := 4#32, byteLen := 1#32, payloadBuf := memOf [0x10#8] }

/-- The block in PHASE = ERROR. -/
def failed : State := { small with phase := .error, errCode := 0x02#8, errInfo := 0x011#12 }

/-- A tree whose right spine has `n` nodes. -/
def deepTree : Nat → Tree
  | 0 => .leaf 0#8 1 0
  | n + 1 => .node (.leaf (BitVec.ofNat 8 (n + 1)) 1 (n + 1)) (deepTree n) (n + 2) (256 + n)

/-! ### Well-formedness: what the checks refuse -/

theorem test_wf_default : Params.default.wellFormed = true := by decide
theorem test_wf_commands : Instr.encAll.wellFormed = true := rfl
theorem test_wf_no_chunk : ({ maxChunk := 0, inDepth := 1, outDepth := 1 } : Params).wellFormed = false := by
  decide
theorem test_wf_chunk_too_large :
    ({ maxChunk := 134217728, inDepth := 1, outDepth := 1 } : Params).wellFormed = false := by decide
theorem test_wf_no_input_fifo : ({ maxChunk := 1, inDepth := 0, outDepth := 1 } : Params).wellFormed = false := by
  decide
theorem test_wf_no_output_fifo :
    ({ maxChunk := 1, inDepth := 1, outDepth := 0 } : Params).wellFormed = false := by decide
theorem test_memory_unsorted : Memory.wf [(1, 0#8), (0, 0#8)] = false := by decide

/-! ### Decoding: words of spec/opcode_table.json written out in bits -/

theorem test_decode_control : decode 0b00000000000000000000000000000001#32 = .ok .clear := by rfl
theorem test_decode_encoder : decode 0b00000000000000000000000000010000#32 = .ok .encLoad := by rfl
theorem test_decode_tree : decode 0b00000000000000000000000000010001#32 = .ok .tbBuild := by rfl
theorem test_decode_packer : decode 0b00000000000000000000000000010100#32 = .ok .bpPack := by rfl
theorem test_decode_decoder : decode 0b00000000000000000000000000100100#32 = .ok .decDecode := by rfl
theorem test_decode_unpacker : decode 0b00000000000000000000000000100011#32 = .ok .buReadPayload := by rfl
theorem test_decode_composite : decode 0b00000000000000000000000000101001#32 = .ok .decAll := by rfl
theorem test_decode_reserved : decode 0b00000000000000000000000000010101#32 = .error (.reservedOpcode 0x15#8) := by
  rfl
theorem test_decode_high_bit : decode 0b10000000000000000000000000010000#32 = .error .reservedBits := by rfl
theorem test_decode_table_word : decodeTableWord 32 0x18 = some .encChunk := by rfl

/-! ### One step of each command, on the examples of spec/ -/

/-- R154, example: IRQ_STATUS = 0x1, and nothing else. -/
theorem test_nop : exec .nop small = .next { small with irqStatus := 0b01#2 } := by rfl

/-- R156, example. -/
theorem test_clear :
    Gives (exec .clear { failed with errCode := 0x04#8, inClosed := true, outCount := 25#32 }) (fun t =>
      t.phase = .idle ∧ t.errCode = 0#8 ∧ t.inClosed = false ∧ t.outCount = 0#32 ∧
        (readCsr 0x0008#16 t).1 = 0x00000030#32 ∧ t.irqStatus = 0b01#2) = true := by decide +kernel

/-- R160, example: the last byte of the chunk `41 41 41 42`. -/
theorem test_encLoad :
    Gives (exec .encLoad (running .encLoad (.popped (.load 4 3) (some 0x42#8))
        { small with freq := tableOf [(0x41, 3#32)], inCount := 4#32
                     chunkBuf := memOf [0x41#8, 0x41#8, 0x41#8] })) (fun t =>
      t.freq.toList = freq4.toList ∧ t.curLen = 4#32 ∧ t.dictCount = 2#32 ∧ t.phase = .eLoaded ∧ t.inCount = 4#32 ∧
        t.chunkBuf = memOf [0x41#8, 0x41#8, 0x41#8, 0x42#8]) = true := by decide +kernel

/-- R84, R160: at the end of the input the InPop returns EOF and no byte is counted. -/
theorem test_encLoad_eof :
    Gives (exec .encLoad { small with inClosed := true }) (fun t =>
      t.point = .popped (.load 16 0) none ∧ t.inCount = 0#32) = true := by decide +kernel

/-- R200, example. -/
theorem test_tbBuild :
    Gives (exec .tbBuild loaded) (fun t => t.tree = some tree4 ∧ t.phase = .eTree) = true := by decide +kernel

/-- R200, R202: three equal frequencies; ties go to the lower key, the first popped to the right. -/
theorem test_tbBuild_ties :
    Gives (exec .tbBuild { loaded with freq := tableOf [(1, 1#32), (2, 1#32), (3, 1#32)] }) (fun t =>
      t.tree = some (.node (.node (.leaf 2#8 1 2) (.leaf 1#8 1 1) 2 256) (.leaf 3#8 1 3) 3 257)) = true := by
  decide +kernel

/-- R170, example. -/
theorem test_ctGen :
    Gives (exec .ctGen built) (fun t =>
      t.codeLen.toList = coded.codeLen.toList ∧ t.codeVal.toList = coded.codeVal.toList ∧
        t.bitLen = 4#32 ∧ t.byteLen = 1#32 ∧ t.tree = none ∧ t.phase = .eCodes) = true := by decide +kernel

/-- R175, example. -/
theorem test_encEmitDict :
    dictBytes coded = [0x00#8, 0x00#8, 0x00#8, 0x02#8, 0x41#8, 0x01#8, 0x00#8, 0x00#8, 0x00#8, 0x00#8,
      0x42#8, 0x01#8, 0x00#8, 0x00#8, 0x00#8, 0x01#8] := by decide +kernel

/-- R220, example: the first byte pushed, and the bytes still to push. -/
theorem test_bpPack :
    Gives (exec .bpPack emitted) (fun t => t.outFifo = [0x00#8] ∧
      t.point = .pushed .pack [0x00#8, 0x00#8, 0x04#8, 0x00#8, 0x00#8, 0x00#8, 0x01#8, 0x10#8]) = true := by
  decide +kernel

/-- R180: CODE_TOO_LONG carries the composite's opcode; here SEQUENCE, outside IDLE. -/
theorem test_encChunk_sequence :
    Gives (exec .encChunk loaded) (fun t => t.errCode = 0x02#8 ∧ t.errInfo = 0x118#12) = true := by
  decide +kernel

/-- R180, example: after the chunk's last byte the record's first byte is pushed. -/
theorem test_encChunk :
    Gives (exec .encChunk (running .encChunk (.popped (.load 4 3) (some 0x42#8))
        { small with freq := tableOf [(0x41, 3#32)], chunkBuf := memOf [0x41#8, 0x41#8, 0x41#8] })) (fun t =>
      t.outFifo = [0x00#8] ∧ t.phase = .eCodes ∧ t.point = .pushed .dict ((record4.take 16).drop 1)) = true := by
  decide +kernel

/-- R182: ENC_ALL on an empty closed input emits nothing and sets END. -/
theorem test_encAll :
    Gives (exec .encAll (running .encAll (.popped (.load 16 0) none) { small with inClosed := true })) (fun t =>
      t.endFlag = true ∧ t.outFifo = [] ∧ t.phase = .idle ∧ t.run = none) = true := by decide +kernel

/-- R240, example. -/
theorem test_decReadCount :
    Gives (exec .decReadCount (running .decReadCount (.popped (.count [0#8, 0#8, 0#8]) (some 2#8)) small))
      (fun t => t.dictCount = 2#32 ∧ t.phase = .dEntries) = true := by decide +kernel

/-- R240: a count of 257 is DICT_TOO_LARGE. -/
theorem test_decReadCount_large :
    Gives (exec .decReadCount (running .decReadCount (.popped (.count [0#8, 0#8, 1#8]) (some 1#8)) small))
      (fun t => t.errCode = 0x09#8 ∧ t.errInfo = 0x020#12 ∧ t.dictCount = 257#32) = true := by decide +kernel

/-- R243, R245: the bits of the value above L are ignored. -/
theorem test_decReadEntries :
    Gives (exec .decReadEntries (running .decReadEntries
        (.popped (.entry 1 [0x42#8, 0x01#8, 0xFF#8, 0xFF#8, 0xFF#8]) (some 0xFF#8))
        { received with phase := .dEntries, dictLen := tableOf [(0, 1#6)], dictVal := tableOf [] })) (fun t =>
      Table.entry t.dictVal 1 = 1#32 ∧ Table.entry t.dictLen 1 = 1#6 ∧ Table.entry t.dictSym 1 = 0x42#8 ∧
        t.phase = .dMeta) = true := by decide +kernel

/-- R246, example. -/
theorem test_decReadMeta :
    Gives (exec .decReadMeta (running .decReadMeta (.popped (.byteLen [0#8, 0#8, 0#8]) (some 1#8))
        { received with phase := .dMeta, bitLen := 4#32 })) (fun t =>
      t.byteLen = 1#32 ∧ t.phase = .dPayload) = true := by decide +kernel

/-- R246, example: nine bits in one byte. -/
theorem test_decReadMeta_exceeds :
    Gives (exec .decReadMeta (running .decReadMeta (.popped (.byteLen [0#8, 0#8, 0#8]) (some 1#8))
        { received with phase := .dMeta, bitLen := 9#32 })) (fun t => t.errCode = 0x06#8) = true := by
  decide +kernel

/-- R290, example. -/
theorem test_buReadPayload :
    Gives (exec .buReadPayload (running .buReadPayload (.popped (.payload 0) (some 0x10#8))
        { received with phase := .dPayload, payloadBuf := [] })) (fun t =>
      t.payloadBuf = [(0, 0x10#8)] ∧ t.phase = .dDecode) = true := by decide +kernel

/-- R250, example. -/
theorem test_decDecode :
    Gives (exec .decDecode received) (fun t => t.outFifo = [0x41#8] ∧ t.curLen = 4#32 ∧
      t.point = .pushed .decoded [0x41#8, 0x41#8, 0x42#8]) = true := by decide +kernel

/-- R250: a bit string that ends inside a codeword. -/
theorem test_decDecode_unmatched :
    Gives (exec .decDecode { received with dictLen := tableOf [(0, 1#6), (1, 2#6)], dictVal := tableOf [(1, 3#32)] })
      (fun t => t.errCode = 0x07#8 ∧ t.errInfo = 0x824#12 ∧ t.outFifo = []) = true := by decide +kernel

/-- R258: TRUNCATED inside the payload of DEC_CHUNK. -/
theorem test_decChunk :
    Gives (exec .decChunk (running .decChunk (.popped (.payload 0) none) { received with phase := .dPayload }))
      (fun t => t.errCode = 0x04#8 ∧ t.errInfo = 0x728#12) = true := by decide +kernel

/-- R260: the container ends at a record boundary. -/
theorem test_decAll :
    Gives (exec .decAll (running .decAll (.popped (.count []) none) { small with inClosed := true })) (fun t =>
      t.endFlag = true ∧ t.errCode = 0#8 ∧ t.irqStatus = 0b01#2) = true := by decide +kernel

/-! ### Witnesses: states that meet the hypotheses of the statements -/

/-! #### A state meets the invariant when these checks on it give true -/

def checkSized (s : State) : Bool :=
  s.cfg.wellFormed && decide (1 ≤ s.chunkSize.toNat) && decide (s.chunkSize.toNat ≤ s.cfg.maxChunk) &&
  decide (s.inFifo.length ≤ s.cfg.inDepth) && decide (s.outFifo.length ≤ s.cfg.outDepth) &&
  Memory.wf s.chunkBuf && decide (∀ c ∈ s.chunkBuf, c.1 < s.cfg.maxChunk) &&
  Memory.wf s.payloadBuf && decide (∀ c ∈ s.payloadBuf, c.1 < s.cfg.payloadBytes) &&
  s.codeLen.toList.all (fun l => decide (l.toNat ≤ 32)) && s.dictLen.toList.all (fun l => decide (l.toNat ≤ 32)) &&
  (List.zipWith (fun l v => decide (v.toNat < 2 ^ l.toNat)) s.dictLen.toList s.dictVal.toList).all id &&
  decide (s.curLen.toNat ≤ s.cfg.maxChunk)

theorem entry_le_of_all {t : Table (BitVec 6)} (h : t.toList.all (fun l => decide (l.toNat ≤ 32)) = true)
    (i : Nat) : (Table.entry t i).toNat ≤ 32 := by
  rw [Table.toList_eq] at h
  by_cases hi : i < 256
  · simpa using (List.all_eq_true.mp h) _ (List.mem_map_of_mem (List.mem_range.mpr hi))
  · simp [Table.entry, hi]

theorem sized_of_check {s : State} (h : checkSized s = true) : Sized s := by
  simp only [checkSized, Bool.and_eq_true, decide_eq_true_eq] at h
  obtain ⟨⟨⟨⟨⟨⟨⟨⟨⟨⟨⟨⟨h1, h2⟩, h3⟩, h4⟩, h5⟩, h6⟩, h7⟩, h8⟩, h9⟩, h10⟩, h11⟩, h12⟩, h13⟩ := h
  refine ⟨h1, ⟨h2, h3⟩, h4, h5, ⟨h6, h7⟩, ⟨h8, h9⟩, entry_le_of_all h10, entry_le_of_all h11, ?_, h13⟩
  intro i
  rw [Table.toList_eq, Table.toList_eq, List.zipWith_map, List.zipWith_self] at h12
  by_cases hi : i < 256
  · simpa using (List.all_eq_true.mp h12) _ (List.mem_map_of_mem (List.mem_range.mpr hi))
  · simp [Table.entry, hi]

/-- The check of the control state, for a state in which no DEC_DECODE pushes bytes. -/
def checkControlled (s : State) : Bool :=
  decide (s.phase = .error ↔ s.errCode ≠ 0#8) && decide (s.phase = .error → s.run = none) &&
  decide (s.dictCount.toNat ≤ 256) && decide (s.bitLen.toNat ≤ 8 * s.byteLen.toNat) &&
  decide (s.byteLen.toNat ≤ s.cfg.payloadBytes) && decide (s.phase ≠ .eTree → s.tree = none ∧ s.queue = []) &&
  decide (s.cand = none) && decide (s.inReset = false)

theorem inv_of_check {s : State} (h1 : checkSized s = true) (h2 : checkControlled s = true)
    (h3 : ∀ r, s.run = some r → RunOk s r) : Inv s := by
  simp only [checkControlled, Bool.and_eq_true, decide_eq_true_eq] at h2
  obtain ⟨⟨⟨⟨⟨⟨⟨a, b⟩, c⟩, d⟩, e⟩, f⟩, g⟩, k⟩ := h2
  refine ⟨sized_of_check h1, a, ?_, fun _ => c, fun _ => ⟨d, e⟩, f, fun hc => absurd g hc, h3, ?_⟩
  · intro he r hr; rw [b he] at hr; cases hr
  · intro hr; rw [k] at hr; cases hr

/-- A command that has just been accepted is at a position of its own. -/
theorem runOk_start {i : Instr} {s : State} (hi : decode (encode i) = .ok i) (r : Run)
    (h : (running i .start s).run = some r) : RunOk (running i .start s) r := by
  cases h
  refine ⟨trivial, ?_⟩
  show match decode (encode i) with | .ok j => hasPoint j .start = true | .error _ => Point.start = .start
  rw [hi]
  rfl

theorem runOk_idle {s : State} (hs : s.run = none) (r : Run) (h : s.run = some r) : RunOk s r := by
  rw [hs] at h; cases h

theorem inv_small : Inv small := inv_of_check (by decide +kernel) (by decide +kernel) (runOk_idle rfl)
theorem inv_failed : Inv failed := inv_of_check (by decide +kernel) (by decide +kernel) (runOk_idle rfl)
theorem inv_received : Inv (running .decDecode .start received) :=
  inv_of_check (by decide +kernel) (by decide +kernel) (runOk_start rfl)

/-! #### Command words and steps -/

theorem witness_DecodeUndoesEncode : Instr.wellFormed .ctGen = true := rfl

theorem witness_EveryWordIsACommandOrIllegal :
    reservedOf 0x00000100#32 ≠ 0#24 ∧ ReservedOpcode (opcodeOf 0x00000002#32) ∧
    ReservedOpcode (opcodeOf 0x000000FF#32) ∧
    (∃ e, decode 0x0000002A#32 = .error e) ∧ decode 0x00000012#32 = .ok .ctGen ∧
    ({ small with run := some { word := 0x00000100#32, point := .start } } : State).inReset = false ∧
    ({ small with run := some { word := 0x00000100#32, point := .start } } : State).host = [] :=
  ⟨by decide, .inl (by decide), .inr (.inr (.inr (.inr (by decide)))), ⟨_, rfl⟩, rfl, rfl, rfl⟩

/-- The block running an accepted illegal word. -/
def illegal : State := { small with run := some { word := 0x00000100#32, point := .start } }

/-- The engine's turn in each of the four ways, on a block that runs a command, an illegal word or nothing, and on one
in reset; and a host move. -/
theorem witness_EveryStepIsAHostActionOrAnEngineStep :
    (GivesTurn (running .nop .start small) (running .nop .start small) ∧
      (running .nop .start small).run = some { word := encode .nop, point := .start } ∧
      decode (encode .nop) = .ok .nop ∧ (running .nop .start small).inReset = false) ∧
    (GivesTurn { illegal with host := [.engine, .recv] } { illegal with host := [.recv] } ∧
      decode 0x00000100#32 = .error .reservedBits ∧ illegal.inReset = false) ∧
    (GivesTurn { small with host := [.ackSameStep 3#32] } (writeCsr 0x0018#16 3#32 small) ∧
      (writeCsr 0x0018#16 3#32 small).run = none) ∧
    (GivesTurn { small with host := [.recv], inReset := true } { small with host := [.recv], inReset := true }) ∧
    ((Move.csrRead 0x0000#16).ready { small with host := [.csrRead 0x0000#16] } = true ∧
      (Move.csrRead 0x0000#16).leavesEngine = false) :=
  ⟨⟨.inl ⟨rfl, rfl⟩, rfl, rfl, rfl⟩, ⟨.inr (.inl ⟨_, rfl, rfl⟩), rfl, rfl⟩,
    ⟨.inr (.inr (.inl ⟨_, _, rfl, rfl⟩)), rfl⟩, .inr (.inr (.inr ⟨_, _, rfl, rfl, rfl⟩)), rfl, rfl⟩

theorem witness_CommandWriteIsAcceptedOrDropped :
    small.inReset = false ∧ (running .encAll .start small).busy = true ∧
    (failed.busy = false ∧ failed.phase = .error ∧ encode .encLoad ≠ encode .nop ∧
      encode .encLoad ≠ encode .clear) ∧
    (small.busy = false ∧ (small.phase = .error → encode .encLoad = encode .nop ∨ encode .encLoad = encode .clear)) ∧
    (failed.phase = .error → encode .clear = encode .nop ∨ encode .clear = encode .clear) :=
  ⟨rfl, rfl, ⟨rfl, rfl, by decide, by decide⟩, ⟨rfl, by decide⟩, fun _ => .inr rfl⟩

theorem witness_WrongPhaseRaisesSequence :
    (Instr.tbBuild, Phase.eLoaded) ∈ phaseRows ∧ AtStart .tbBuild small ∧ small.phase ≠ .eLoaded ∧
    AtStart .nop failed :=
  ⟨by decide, .inl rfl, by decide, .inl rfl⟩

/-- ENC_LOAD and DEC_READ_COUNT at the end of the input, and NOP. -/
theorem witness_CompletionLeavesTheNextPhase :
    (Inv (running .nop .start small) ∧ (running .nop .start small).run =
      some { word := encode .nop, point := (running .nop .start small).point } ∧
      ∃ t, exec .nop (running .nop .start small) = .next t ∧ t.run = none ∧ t.phase ≠ .error) ∧
    (Inv (running .encLoad (.popped (.load 4 0) none) { small with inClosed := true }) ∧
      ∃ t, exec .encLoad (running .encLoad (.popped (.load 4 0) none) { small with inClosed := true }) = .next t ∧
        t.run = none ∧ t.phase = .idle) ∧
    (Inv (running .decReadCount (.popped (.count []) none) { small with inClosed := true }) ∧
      ∃ t, exec .decReadCount (running .decReadCount (.popped (.count []) none) { small with inClosed := true }) =
        .next t ∧ t.run = none ∧ t.phase = .idle) := by
  refine ⟨⟨inv_of_check (by decide +kernel) (by decide +kernel) (runOk_start rfl), rfl, gives_exists (by decide +kernel)⟩,
    ⟨inv_of_check (by decide +kernel) (by decide +kernel) ?_, gives_exists (by decide +kernel)⟩,
    ⟨inv_of_check (by decide +kernel) (by decide +kernel) ?_, gives_exists (by decide +kernel)⟩⟩
  · intro r h; cases h; exact ⟨⟨rfl, by decide, by decide⟩, rfl⟩
  · intro r h; cases h; exact ⟨⟨rfl, by decide⟩, rfl⟩

/-! #### Registers -/

theorem witness_UnmappedReservedAndReadOnlyAccess :
    csrAt 0x0044#16 = .unmapped ∧ csrAt 0xFFFC#16 = .unmapped ∧
    (csrAt 0x0000#16 ≠ .cmd ∧ csrAt 0x0000#16 ≠ .ctrl ∧ csrAt 0x0000#16 ≠ .chunkSize ∧ csrAt 0x0000#16 ≠ .irqEn ∧
      csrAt 0x0000#16 ≠ .irqStatus) ∧
    small.busy = false ∧ csrAt 0x0C00#16 = .codeLen 0 ∧ csrAt 0x0FFF#16 = .codeLen 255 ∧ csrAt 0x1000#16 = .dictSymLen 0 ∧
    csrAt 0x13FF#16 = .dictSymLen 255 := by decide

theorem witness_StatusFieldsReadExactly : small.busy = false := rfl

/-- A busy block, and BP_PACK accepted in IDLE, which is about to raise SEQUENCE. -/
theorem witness_ReadsWhileBusy :
    (running .encAll .start small).busy = true ∧
    ((running .bpPack .start small).run = some { word := encode .bpPack, point := .start } ∧
      (Instr.bpPack, Phase.eDict) ∈ phaseRows ∧ (running .bpPack .start small).phase ≠ .eDict) :=
  ⟨rfl, rfl, by decide, by decide⟩

/-- R53: BP_PACK in IDLE and ENC_ALL in E_DICT show the present phase alone; BP_PACK in E_DICT shows both its
phases. -/
theorem test_shownPhases :
    shownPhases (running .bpPack .start small) = [.idle] ∧
    shownPhases (running .encAll .start emitted) = [.eDict] ∧
    shownPhases (running .bpPack .start emitted) = [.eDict, .eDict, .idle] := ⟨rfl, rfl, rfl⟩

theorem witness_ResultRegistersAndTablesReadExactly :
    coded.busy = false ∧ 3 < 4 ∧ 255 < 256 ∧ coded.freqSpec = true ∧ coded.codeSpec = true ∧
    received.busy = false ∧ 1 < received.dictSpec ∧ 1 < received.dictCount.toNat := by decide +kernel

/-- The two ends of the legal range, one value below and one above it, a busy block, and the start of ENC_LOAD. -/
theorem witness_ChunkSizeRegister :
    (small.inReset = false ∧ small.busy = false ∧ 1 ≤ (1#32 : Word).toNat ∧ (16#32 : Word).toNat ≤ small.cfg.maxChunk) ∧
    ((0#32 : Word).toNat < 1 ∧ small.cfg.maxChunk < (17#32 : Word).toNat) ∧
    (running .encAll .start small).busy = true ∧
    (AtStart .encLoad { small with inFifo := [7#8] } ∧ small.phase = .idle ∧ 1 ≤ small.chunkSize.toNat) :=
  ⟨by decide +kernel, by decide +kernel, rfl, .inl rfl, rfl, by decide⟩

theorem witness_IrqEnAndCtrlRegisters :
    small.inReset = false ∧ (1#32 : Word).getLsbD 0 = true ∧ (0xFFFFFFFE#32 : Word).getLsbD 0 = false := by decide

/-- A completion, an error, a step that ends no command, and a write of IRQ_STATUS on the step of a completion and of
an error. -/
theorem witness_IrqStatusRegisterAndLine :
    small.inReset = false ∧ 1 < 2 ∧
    (∃ t, exec .nop small = .next t ∧ t.run = none) ∧ (∃ t, exec .tbBuild small = .next t ∧ t.run = none) ∧
    (∃ t, exec .encLoad { small with inFifo := [7#8] } = .next t ∧ t.run ≠ none) ∧
    (∃ t, step { running .nop .start small with host := [.ackSameStep 1#32] } = .next t ∧ t.run = none ∧
      t.phase ≠ .error) ∧
    (∃ t, step { running .tbBuild .start small with host := [.ackSameStep 2#32] } = .next t ∧ t.run = none ∧
      t.phase = .error) :=
  ⟨rfl, by decide, gives_exists (by decide +kernel), gives_exists (by decide +kernel),
    gives_exists (by decide +kernel), gives_exists (by decide +kernel), gives_exists (by decide +kernel)⟩

/-! #### Streams -/

/-- An open FIFO with room, a full one, and a closed stream. -/
theorem witness_InputTransfer :
    (small.inReset = false ∧ ({ small with host := [.send 1#8 true] } : State).host = .send 1#8 true :: []) ∧
    (small.inFifo.length < small.cfg.inDepth ∧ small.inClosed = false) ∧
    ({ small with inFifo := List.replicate 64 0#8 } : State).cfg.inDepth ≤ (List.replicate 64 0#8).length ∧
    ({ small with inClosed := true } : State).inClosed = true :=
  ⟨⟨rfl, rfl⟩, ⟨by decide +kernel, rfl⟩, by decide +kernel, rfl⟩

theorem witness_OutputRead :
    (({ small with outFifo := [1#8, 2#8], host := [.recv] } : State).host = .recv :: [] ∧
      ({ small with outFifo := [1#8, 2#8], host := [.recv] } : State).outFifo = 1#8 :: [2#8]) ∧
    (∃ t, step { small with host := [.recv] } = .next t ∧ t.outFifo = []) :=
  ⟨⟨rfl, rfl⟩, gives_exists (by decide +kernel)⟩

/-- A step that takes a byte, one that appends a byte, and one that does neither. -/
theorem witness_EngineStepMovesAtMostOneByte :
    (∃ t, exec .encLoad { small with inFifo := [7#8] } = .next t ∧ t.inFifo = []) ∧
    (∃ t, exec .encEmitDict coded = .next t ∧ t.outFifo = [0#8]) ∧
    (∃ t, exec .tbBuild loaded = .next t ∧ t.outFifo = []) :=
  ⟨gives_exists (by decide +kernel), gives_exists (by decide +kernel), gives_exists (by decide +kernel)⟩

/-- A hold on the input, a hold on the output, and a command that ends. -/
theorem witness_HoldChangesNothing :
    (∃ t, exec .encLoad (running .encLoad .start { small with outFifo := List.replicate 64 0#8 }) = .next t ∧
      t.run ≠ none) ∧
    (∃ t, exec .encEmitDict (running .encEmitDict .start { coded with outFifo := List.replicate 64 0#8 }) = .next t ∧
      t.run ≠ none) ∧
    (∃ t, exec .nop (running .nop .start { small with outFifo := List.replicate 64 0#8 }) = .next t ∧ t.run = none) ∧
    (running .nop .start small).busy = true ∧ small.inFifo = [] ∧ small.inClosed = false ∧
    small.cfg.outDepth ≤ (List.replicate 64 0#8 : List Byte).length :=
  ⟨gives_exists (by decide +kernel), gives_exists (by decide +kernel), gives_exists (by decide +kernel), rfl, rfl,
    rfl, by decide +kernel⟩

/-- A step that answers a next state, and one that faults. -/
theorem witness_DepthsDoNotMatter :
    small.outFifo.length < small.cfg.outDepth ∧ small.outFifo.length < 1 ∧
    (∃ t, exec .encEmitDict coded = .next t ∧ t.outFifo = [0#8]) ∧
    exec .encLoad (running .encLoad (.popped (.load 18 16) (some 0#8)) small) = .fault (.bufferIndex .chunk 16) :=
  ⟨by decide +kernel, by decide +kernel, gives_exists (by decide +kernel), by rfl⟩

/-! #### Control commands and errors -/

theorem witness_NopCompletes :
    AtStart .nop failed ∧ AtStart .nop (running .nop .start small) ∧
    (opcodeOf 0x00000100#32 = 0x00#8 ∧ 0x00000100#32 ≠ encode .nop) ∧
    (failed.inReset = false ∧ failed.busy = false ∧ failed.phase = .error) :=
  ⟨.inl rfl, .inr rfl, by decide, rfl, rfl, rfl⟩

theorem witness_ClearCompletes :
    AtStart .clear failed ∧ (running .encAll .start small).inReset = false ∧
    (running .encAll .start small).busy = true := ⟨.inl rfl, rfl, rfl⟩

/-- The block in D_PAYLOAD, with a dictionary of the codewords "0" and "11". -/
def halfRead : State :=
  { received with phase := .dPayload, dictLen := tableOf [(0, 1#6), (1, 2#6)], dictVal := tableOf [(1, 3#32)] }

/-- SEQUENCE, and two composites that fail: DEC_ALL inside a count, and in DEC_DECODE, in the step that takes the
payload's last byte. -/
theorem witness_ErrorEntryRecords :
    (∃ t, exec .tbBuild small = .next t ∧ t.phase = .error) ∧ small.phase ≠ .error ∧
    (∃ t, exec .decAll (running .decAll (.popped (.count [1#8]) none) small) = .next t ∧ t.phase = .error) ∧
    (Inv (running .decAll (.popped (.payload 0) (some 0x17#8)) halfRead) ∧
      ∃ t, exec .decAll (running .decAll (.popped (.payload 0) (some 0x17#8)) halfRead) = .next t ∧
        t.phase = .error ∧ t.errCode = 0x07#8 ∧ t.errInfo = 0x829#12) := by
  refine ⟨gives_exists (by decide +kernel), by decide, gives_exists (by decide +kernel),
    inv_of_check (by decide +kernel) (by decide +kernel) ?_, gives_exists (by decide +kernel)⟩
  intro r h; cases h; exact ⟨⟨rfl, by decide⟩, rfl⟩

/-- A step that stays in ERROR, and the step of CLEAR. -/
theorem witness_ErrorIsLeftOnlyByClearOrReset :
    (Inv failed ∧ failed.phase = .error ∧ ∃ t, step failed = .next t ∧ t.phase = .error) ∧
    (∃ t, step (running .clear .start failed) = .next t ∧ t.phase = .idle) ∧
    (failed.inReset = false ∧ failed.busy = false) :=
  ⟨⟨inv_failed, rfl, gives_exists (by decide +kernel)⟩, gives_exists (by decide +kernel), rfl, rfl⟩

/-! #### Encoder -/

/-- The block at the end of its input: the FIFO is empty and the stream closed, so the next InPop returns EOF. -/
def drained : State := { small with inClosed := true }

theorem witness_EncLoadTakesEachByteAndCompletes :
    (AtStart .encLoad { small with inFifo := [7#8] } ∧ small.phase = .idle ∧ 1 ≤ small.chunkSize.toNat) ∧
    (AtPoint .encLoad (.popped (.load 2 0) (some 7#8))
        (running .encLoad (.popped (.load 2 0) (some 7#8)) { small with inFifo := [8#8] }) ∧
      0 < small.cfg.maxChunk ∧ 0 + 1 < 2) ∧
    (AtPoint .encLoad (.popped (.load 16 15) (some 7#8))
        (running .encLoad (.popped (.load 16 15) (some 7#8)) small) ∧ 15 < small.cfg.maxChunk ∧ 16 ≤ 15 + 1) ∧
    (AtPoint .encLoad (.popped (.load 16 1) none) (running .encLoad (.popped (.load 16 1) none) small) ∧ 1 ≤ 1) ∧
    AtPoint .encLoad (.popped (.load 16 0) none) (running .encLoad (.popped (.load 16 0) none) small) ∧
    (AtStart .encLoad drained ∧ drained.phase = .idle ∧ 1 ≤ drained.chunkSize.toNat) ∧
    AtPoint .encLoad (.popped (.load 2 0) (some 7#8)) (running .encLoad (.popped (.load 2 0) (some 7#8)) drained) ∧
    drained.inFifo = [] ∧ drained.inClosed = true :=
  ⟨⟨.inl rfl, rfl, by decide⟩, ⟨rfl, by decide, by decide⟩, ⟨rfl, by decide, by decide⟩, ⟨rfl, by decide⟩, rfl,
    ⟨.inl rfl, rfl, by decide⟩, rfl, rfl, rfl⟩

theorem witness_LoadStepsStoreOneByte :
    (∃ t, exec .encAll (running .encAll (.popped (.load 2 0) (some 7#8)) { small with inFifo := [8#8] }) = .next t ∧
      t.inFifo = [] ∧ t.chunkBuf = [(0, 7#8)]) ∧
    (∃ t, exec .buReadPayload (running .buReadPayload (.popped (.payload 0) (some 7#8)) received) = .next t ∧
      t.run = none ∧ t.payloadBuf = [(0, 7#8)]) :=
  ⟨gives_exists (by decide +kernel), gives_exists (by decide +kernel)⟩

/-- A chunk that CHUNK_SIZE ends, and one that the close ends. -/
theorem witness_EncLoadLoadsTheWholeChunk :
    (∃ s : State, AtPoint .encLoad .start s ∧ s.host = [] ∧ s.inReset = false ∧ s.phase = .idle ∧
      s.cfg.wellFormed = true ∧ s.chunkSize.toNat ≤ s.cfg.maxChunk ∧ s.inFifo = [1#8, 2#8] ++ [3#8] ∧
      [1#8, 2#8].length = s.chunkSize.toNat) ∧
    (∃ s : State, AtPoint .encLoad .start s ∧ s.host = [] ∧ s.inReset = false ∧ s.phase = .idle ∧
      s.cfg.wellFormed = true ∧ s.chunkSize.toNat ≤ s.cfg.maxChunk ∧ s.inFifo = [1#8, 2#8] ++ [] ∧
      [1#8, 2#8].length < s.chunkSize.toNat ∧ s.inClosed = true) :=
  ⟨⟨running .encLoad .start { small with chunkSize := 2#32, inFifo := [1#8, 2#8, 3#8] }, rfl, rfl, rfl, rfl,
      by decide, by decide, rfl, by decide⟩,
    ⟨running .encLoad .start { small with inFifo := [1#8, 2#8], inClosed := true }, rfl, rfl, rfl, rfl,
      by decide, by decide, rfl, by decide, rfl⟩⟩

theorem witness_TbBuildCompletes : AtStart .tbBuild loaded ∧ loaded.phase = .eLoaded := ⟨.inl rfl, rfl⟩

theorem witness_PopMinAndMerge :
    (([.leaf 1#8 5 1, .leaf 2#8 5 2, .leaf 3#8 4 3] : List Tree).map Tree.key).Nodup := by decide

theorem witness_OneSymbolGetsCodewordZero : present (tableOf [(0x41, 7#32)]) = [0x41] := by decide +kernel

theorem freqSum_eq (freq : Table Word) : freqSum freq = (freq.toList.map BitVec.toNat).sum := by
  rw [Table.toList_eq, List.map_map]; rfl

theorem conserved_loaded : Conserved loaded := by
  refine ⟨fun _ => ⟨?_, ?_, ?_⟩, fun w cs k b h => by cases h⟩
  · rw [freqSum_eq]; decide +kernel
  · decide +kernel
  · decide +kernel

theorem witness_TreeOfTheChunk :
    Conserved loaded ∧ loaded.phase = .eLoaded ∧ AtStart .tbBuild loaded ∧
    (∃ t, exec .tbBuild loaded = .next t ∧ t.phase = .eTree) ∧ 2 ≤ (present loaded.freq).length :=
  ⟨conserved_loaded, rfl, .inl rfl, gives_exists (by decide +kernel), by decide +kernel⟩

theorem witness_CtGenCompletesWithThePathsOfTheLeaves :
    AtStart .ctGen built ∧ built.phase = .eTree ∧ (∀ l ∈ leavesOf built.tree, l.2.length ≤ 32) ∧
    (∃ t, exec .ctGen built = .next t ∧ t.phase = .eCodes) ∧ ((leavesOf built.tree).map Prod.fst).Nodup ∧
    0x43#8 ∉ (leavesOf built.tree).map Prod.fst :=
  ⟨.inl rfl, rfl, by decide +kernel, gives_exists (by decide +kernel), by decide +kernel, by decide +kernel⟩

theorem witness_CtGenCodeTooLong :
    (AtStart .ctGen { built with tree := some (deepTree 33) } ∧ built.phase = .eTree ∧
      ∃ l ∈ leavesOf (some (deepTree 33)), 32 < l.2.length) ∧
    built.errCode ≠ 0x03#8 ∧
    (∃ t, exec .ctGen { built with tree := some (deepTree 33) } = .next t ∧ t.errCode = 0x03#8) :=
  ⟨⟨.inl rfl, rfl, by decide +kernel⟩, by decide, gives_exists (by decide +kernel)⟩

theorem witness_CodeTableIsPrefixFree :
    AtStart .ctGen built ∧ built.phase = .eTree ∧ ((leavesOf built.tree).map Prod.fst).Nodup ∧ 0x41#8 ≠ 0x42#8 ∧
    (∃ t, exec .ctGen built = .next t ∧ t.phase = .eCodes ∧ Table.entry t.codeLen (0x41#8).toNat ≠ 0#6 ∧
      Table.entry t.codeLen (0x42#8).toNat ≠ 0#6) :=
  ⟨.inl rfl, rfl, by decide +kernel, by decide, gives_exists (by decide +kernel)⟩

theorem witness_BitLenIsTheLengthOfTheCodewords : [0x41#8, 0x42#8].length < 2 ^ 32 := by decide

/-- Room on the output, and none. -/
theorem witness_PushingStepsAppendInOrder :
    (hasBody .encAll PushSite.dict.body = true ∧
      AtPoint .encAll (.pushed .dict [1#8, 2#8]) (running .encAll (.pushed .dict [1#8, 2#8]) coded) ∧
      coded.outFifo.length < coded.cfg.outDepth) ∧
    (hasBody .decDecode PushSite.decoded.body = true ∧
      ({ received with outFifo := List.replicate 64 0#8 } : State).cfg.outDepth ≤
        (List.replicate 64 0#8 : List Byte).length) :=
  ⟨⟨by decide, rfl, by decide +kernel⟩, by decide, by decide +kernel⟩

theorem witness_EncEmitDictEmitsAndCompletes :
    (AtStart .encEmitDict coded ∧ coded.phase = .eCodes ∧ coded.outFifo.length < coded.cfg.outDepth) ∧
    AtPoint .encEmitDict (.pushed .dict []) (running .encEmitDict (.pushed .dict []) coded) ∧
    (AtPoint .encEmitDict .start (running .encEmitDict .start coded) ∧ coded.host = [] ∧ coded.inReset = false ∧
      coded.outFifo.length + 4 + 6 * (present coded.freq).length ≤ coded.cfg.outDepth) :=
  ⟨⟨.inl rfl, rfl, by decide +kernel⟩, rfl, rfl, rfl, rfl, by decide +kernel⟩

theorem witness_BpPackEmitsThePayloadAndCompletes :
    AtPoint .bpPack (.pushed .pack []) (running .bpPack (.pushed .pack []) emitted) ∧
    (AtPoint .bpPack .start (running .bpPack .start emitted) ∧ emitted.host = [] ∧ emitted.inReset = false ∧
      emitted.phase = .eDict ∧ emitted.curLen.toNat ≤ emitted.cfg.maxChunk ∧
      [0x41#8, 0x41#8, 0x41#8, 0x42#8] = (List.range emitted.curLen.toNat).map (emitted.bufByte .chunk) ∧
      emitted.outFifo.length + 8 + ceil8 ([0x41#8, 0x41#8, 0x41#8, 0x42#8].flatMap
        (codewordOf emitted.codeLen emitted.codeVal)).length ≤ emitted.cfg.outDepth) :=
  ⟨rfl, rfl, rfl, rfl, rfl, by decide +kernel, by decide +kernel, by decide +kernel⟩

theorem witness_EncCompositesComplete :
    AtPoint .encAll (.popped (.load 16 0) none) (running .encAll (.popped (.load 16 0) none) small) ∧
    AtPoint .encChunk (.pushed .pack []) (running .encChunk (.pushed .pack []) emitted) ∧
    (AtPoint .encAll (.pushed .pack []) (running .encAll (.pushed .pack []) { emitted with inFifo := [1#8] }) ∧
      1 ≤ emitted.chunkSize.toNat ∧ ({ emitted with inFifo := [1#8] } : State).inFifo = 1#8 :: []) ∧
    (AtPoint .encAll (.pushed .pack []) (running .encAll (.pushed .pack []) { emitted with inClosed := true }) ∧
      emitted.inFifo = []) :=
  ⟨rfl, rfl, ⟨rfl, by decide +kernel, rfl⟩, rfl, rfl⟩

/-- The block with deep output, about to run an encoder composite on `x`, which the close ends. -/
def encoding (i : Instr) (x : List Byte) : State :=
  running i .start
    { State.resetOf { maxChunk := 16, inDepth := 64, outDepth := 8000 } with inFifo := x, inClosed := true }

theorem hasRecord4 : HasRecord [0x41#8, 0x41#8, 0x41#8, 0x42#8] := by unfold HasRecord; decide +kernel

theorem witness_EncChunkWritesTheRecord :
    ∃ s : State, AtPoint .encChunk .start s ∧ s.host = [] ∧ s.inReset = false ∧ s.phase = .idle ∧
      s.cfg.wellFormed = true ∧ s.chunkSize.toNat ≤ s.cfg.maxChunk ∧
      s.inFifo = [0x41#8, 0x41#8, 0x41#8, 0x42#8] ++ [] ∧
      [0x41#8, 0x41#8, 0x41#8, 0x42#8].length < s.chunkSize.toNat ∧ s.inClosed = true ∧
      HasRecord [0x41#8, 0x41#8, 0x41#8, 0x42#8] ∧
      s.outFifo.length + 1548 + 4 * [0x41#8, 0x41#8, 0x41#8, 0x42#8].length ≤ s.cfg.outDepth :=
  ⟨encoding .encChunk [0x41#8, 0x41#8, 0x41#8, 0x42#8], rfl, rfl, rfl, rfl, by decide, by decide, rfl, by decide, rfl,
    hasRecord4, by decide⟩

/-! A chunk whose tree is deeper than 32: its frequencies are Fibonacci's. -/

def fibs : List Nat :=
  [1, 1, 2, 3, 5, 8, 13, 21, 34, 55, 89, 144, 233, 377, 610, 987, 1597] ++
    [2584, 4181, 6765, 10946, 17711, 28657, 46368, 75025, 121393, 196418, 317811, 514229, 832040, 1346269] ++
    [2178309, 3524578, 5702887]

def deepChunk : List Byte := (List.range 34).flatMap fun k => List.replicate (fibs.getD k 0) (BitVec.ofNat 8 k)

def deepFreq : Table Word := tableOf ((List.range 34).map fun k => (k, BitVec.ofNat 32 (fibs.getD k 0)))

theorem entry_foldl_count (chunk : List Byte) (t : Table Word) (i : Nat) (hi : i < 256) :
    Table.entry (chunk.foldl (fun t b => Table.put t b.toNat (Table.entry t b.toNat + 1)) t) i =
      Table.entry t i + BitVec.ofNat 32 (chunk.count (BitVec.ofNat 8 i)) := by
  induction chunk generalizing t with
  | nil => simp
  | cons b chunk ih =>
    rw [List.foldl_cons, ih, List.count_cons]
    by_cases hb : b.toNat = i
    · have : b = BitVec.ofNat 8 i := by rw [← hb]; simp
      subst hb
      rw [Table.entry_put_self _ _ hi]
      simp [BitVec.ofNat_add, add_assoc, add_comm, add_left_comm]
    · have : ¬ b = BitVec.ofNat 8 i := by
        intro h; apply hb; rw [h]; simpa using hi
      rw [Table.entry_put_of_ne _ _ (Ne.symm hb)]
      simp [this]

theorem freqOf_deepChunk : freqOf deepChunk = deepFreq := by
  have h : deepFreq.toList = (List.range 256).map fun i => BitVec.ofNat 32
      ((List.range 34).map fun k => if BitVec.ofNat 8 k == BitVec.ofNat 8 i then fibs.getD k 0 else 0).sum := by
    decide +kernel
  have h2 : (freqOf deepChunk).toList = deepFreq.toList := by
    rw [h, Table.toList_eq]
    apply List.map_congr_left
    intro i hi
    rw [freqOf, entry_foldl_count _ _ _ (List.mem_range.mp hi), Table.entry_zero, deepChunk, List.count_flatMap]
    simp [Function.comp_def, List.count_replicate]
  exact Vector.toList_inj.mp h2

theorem deepChunk_length : deepChunk.length = 14930351 := by
  rw [deepChunk, List.length_flatMap]
  simp only [List.length_replicate]
  decide +kernel

theorem not_hasRecord_deepChunk : ¬ HasRecord deepChunk := by
  have h : ∃ l ∈ leavesOf (buildQueue deepFreq).head?, 32 < l.2.length := by decide +kernel
  obtain ⟨l, hl, hlen⟩ := h
  intro hr
  have := hr l (by rw [leavesOfChunk, freqOf_deepChunk]; exact hl)
  omega

/-- Two chunks that have records, and a chunk that has none. -/
theorem witness_EncAllWritesEveryRecord :
    (∃ (s : State) (x : List Byte), AtPoint .encAll .start s ∧ s.host = [] ∧ s.inReset = false ∧ s.phase = .idle ∧
      s.cfg.wellFormed = true ∧ 1 ≤ s.chunkSize.toNat ∧ s.chunkSize.toNat ≤ s.cfg.maxChunk ∧ s.inFifo = x ∧
      s.inClosed = true ∧ s.outFifo = [] ∧ 1552 * (x.length + 1) ≤ s.cfg.outDepth ∧
      chunksOf s.chunkSize.toNat x.length x = [[0x41#8, 0x41#8], [0x41#8, 0x42#8]] ∧
      ∀ c ∈ [[0x41#8, 0x41#8], [0x41#8, 0x42#8]], HasRecord c) ∧
    (∃ (s : State) (x : List Byte), AtPoint .encAll .start s ∧ s.host = [] ∧ s.inReset = false ∧ s.phase = .idle ∧
      s.cfg.wellFormed = true ∧ 1 ≤ s.chunkSize.toNat ∧ s.chunkSize.toNat ≤ s.cfg.maxChunk ∧ s.inFifo = x ∧
      s.inClosed = true ∧ s.outFifo = [] ∧ 1552 * (x.length + 1) ≤ s.cfg.outDepth ∧
      ∃ c post, chunksOf s.chunkSize.toNat x.length x = [] ++ c :: post ∧ ¬ HasRecord c) := by
  constructor
  · refine ⟨{ encoding .encAll [0x41#8, 0x41#8, 0x41#8, 0x42#8] with chunkSize := 2#32 },
      [0x41#8, 0x41#8, 0x41#8, 0x42#8], rfl, rfl, rfl, rfl, by decide, by decide, by decide, rfl, rfl, rfl, by decide,
      by decide +kernel, ?_⟩
    simp only [List.mem_cons, List.not_mem_nil, or_false]
    rintro c (rfl | rfl) <;> unfold HasRecord <;> decide +kernel
  · refine ⟨running .encAll .start { State.resetOf { maxChunk := 14930351, inDepth := 1, outDepth := 23171906304 } with
        inFifo := deepChunk, inClosed := true }, deepChunk, rfl, rfl, rfl, rfl, by decide, by decide, by decide, rfl,
        rfl, rfl, ?_, deepChunk, chunksOf 14930351 14930350 (deepChunk.drop 14930351), ?_, not_hasRecord_deepChunk⟩
    · rw [deepChunk_length]; decide
    · rw [deepChunk_length]
      have hne : deepChunk.isEmpty = false := by
        rw [List.isEmpty_eq_false_iff, ← List.length_pos_iff, deepChunk_length]; decide
      have htake : deepChunk.take 14930351 = deepChunk := List.take_of_length_le (by rw [deepChunk_length])
      show (if deepChunk.isEmpty then [] else deepChunk.take 14930351 :: _) = _
      rw [hne, htake]
      rfl

/-! #### Decoder -/

theorem witness_DecReadCountCompletes :
    (AtStart .decReadCount { small with inFifo := [1#8] } ∧ small.phase = .idle) ∧
    (AtPoint .decReadCount (.popped (.count [0#8, 0#8]) (some 1#8))
        (running .decReadCount (.popped (.count [0#8, 0#8]) (some 1#8)) { small with inFifo := [2#8] }) ∧
      [0#8, 0#8].length < 3) ∧
    (AtPoint .decReadCount (.popped (.count [0#8, 0#8, 1#8]) (some 0#8))
        (running .decReadCount (.popped (.count [0#8, 0#8, 1#8]) (some 0#8)) small) ∧
      (0#8 ++ 0#8 ++ 1#8 ++ 0#8 : Word).toNat ≤ 256) ∧
    256 < (0#8 ++ 0#8 ++ 1#8 ++ 1#8 : Word).toNat ∧
    AtPoint .decReadCount (.popped (.count []) none) (running .decReadCount (.popped (.count []) none) small) ∧
    AtPoint .decReadCount (.popped (.count [0#8]) none)
      (running .decReadCount (.popped (.count [0#8]) none) small) ∧
    (AtStart .decReadCount drained ∧ drained.phase = .idle) ∧
    AtPoint .decReadCount (.popped (.count [0#8]) (some 1#8))
      (running .decReadCount (.popped (.count [0#8]) (some 1#8)) drained) ∧
    drained.inFifo = [] ∧ drained.inClosed = true :=
  ⟨⟨.inl rfl, rfl⟩, ⟨rfl, by decide⟩, ⟨rfl, by decide⟩, by decide, rfl, rfl, ⟨.inl rfl, rfl⟩, rfl, rfl, rfl⟩

/-- The block in D_ENTRIES after entry 0, the codeword "0", with the last byte of entry 1 taken. -/
def entering (L v : Byte) : State :=
  running .decReadEntries (.popped (.entry 1 [0x42#8, L, 0#8, 0#8, 0#8]) (some v))
    { received with phase := .dEntries, dictLen := tableOf [(0, 1#6)], dictVal := Table.zero 32, inFifo := [1#8] }

/-- The lengths 32 and 33, a repeated codeword, the last entry and one that is not, no entry, and EOF. -/
theorem witness_DecReadEntriesTakesEachByteAndCompletes :
    (AtStart .decReadEntries { received with phase := .dEntries, inFifo := [1#8] } ∧ 1 ≤ received.dictCount.toNat) ∧
    (AtPoint .decReadEntries (.popped (.entry 0 [1#8, 1#8, 0#8, 0#8]) (some 0#8))
        (running .decReadEntries (.popped (.entry 0 [1#8, 1#8, 0#8, 0#8]) (some 0#8)) { received with inFifo := [1#8] }) ∧
      [1#8, 1#8, 0#8, 0#8].length < 5) ∧
    (AtPoint .decReadEntries (.popped (.entry 1 [0x42#8, 32#8, 0#8, 0#8, 0#8]) (some 1#8)) (entering 32#8 1#8) ∧
      (32#8 : Byte).toNat ≤ 32 ∧ 32 < (33#8 : Byte).toNat ∧
      (¬ ∃ j < 1, (Table.entry (entering 32#8 1#8).dictLen j).toNat = (32#8 : Byte).toNat ∧
        (Table.entry (entering 32#8 1#8).dictVal j).toNat =
          (0#8 ++ 0#8 ++ 0#8 ++ 1#8 : Word).toNat % 2 ^ (32#8 : Byte).toNat) ∧
      (entering 32#8 1#8).dictCount.toNat ≤ 1 + 1 ∧
      1 + 1 < ({ entering 32#8 1#8 with dictCount := 3#32 } : State).dictCount.toNat ∧
      (entering 32#8 1#8).inFifo = 1#8 :: []) ∧
    (∃ j < 1, (Table.entry (entering 1#8 2#8).dictLen j).toNat = (1#8 : Byte).toNat ∧
      (Table.entry (entering 1#8 2#8).dictVal j).toNat =
        (0#8 ++ 0#8 ++ 0#8 ++ 2#8 : Word).toNat % 2 ^ (1#8 : Byte).toNat) ∧
    (AtStart .decReadEntries { small with phase := .dEntries } ∧ small.dictCount = 0#32) ∧
    AtPoint .decReadEntries (.popped (.entry 0 [1#8]) none)
      (running .decReadEntries (.popped (.entry 0 [1#8]) none) received) ∧
    (AtStart .decReadEntries { received with phase := .dEntries, inClosed := true } ∧ received.inFifo = []) ∧
    (AtPoint .decReadEntries (.popped (.entry 1 [0x42#8, 32#8, 0#8, 0#8, 0#8]) (some 1#8))
        { entering 32#8 1#8 with dictCount := 3#32, inFifo := [], inClosed := true }) :=
  ⟨⟨.inl rfl, by decide⟩, ⟨rfl, by decide⟩, ⟨rfl, by decide, by decide, by decide +kernel, by decide, by decide, rfl⟩,
    by decide +kernel, ⟨.inl rfl, rfl⟩, rfl, ⟨.inl rfl, rfl⟩, rfl⟩

/-- MAX_CHUNK is 16: a payload of 64 bytes fits, one of 65 does not. -/
theorem witness_DecReadMetaCompletes :
    (AtStart .decReadMeta { received with phase := .dMeta, inFifo := [1#8] }) ∧
    AtPoint .decReadMeta (.popped (.bitLen [0#8, 0#8, 0#8]) (some 4#8))
      (running .decReadMeta (.popped (.bitLen [0#8, 0#8, 0#8]) (some 4#8)) { received with inFifo := [1#8] }) ∧
    AtPoint .decReadMeta (.popped (.byteLen [0#8, 0#8, 0#8]) (some 64#8))
      (running .decReadMeta (.popped (.byteLen [0#8, 0#8, 0#8]) (some 64#8)) received) ∧
    8 * (0#8 ++ 0#8 ++ 0#8 ++ 1#8 : Word).toNat < ({ received with bitLen := 9#32 } : State).bitLen.toNat ∧
    (({ received with bitLen := 8#32 } : State).bitLen.toNat ≤ 8 * (0#8 ++ 0#8 ++ 0#8 ++ 1#8 : Word).toNat) ∧
    (received.bitLen.toNat ≤ 8 * (0#8 ++ 0#8 ++ 0#8 ++ 65#8 : Word).toNat ∧
      4 * received.cfg.maxChunk < (0#8 ++ 0#8 ++ 0#8 ++ 65#8 : Word).toNat) ∧
    (received.bitLen.toNat ≤ 8 * (0#8 ++ 0#8 ++ 0#8 ++ 64#8 : Word).toNat ∧
      (0#8 ++ 0#8 ++ 0#8 ++ 64#8 : Word).toNat ≤ 4 * received.cfg.maxChunk) ∧
    AtPoint .decReadMeta (.popped (.bitLen [0#8]) none) (running .decReadMeta (.popped (.bitLen [0#8]) none) received) ∧
    AtPoint .decReadMeta (.popped (.byteLen []) none) (running .decReadMeta (.popped (.byteLen []) none) received) ∧
    (AtStart .decReadMeta { received with phase := .dMeta, inClosed := true } ∧ received.inFifo = []) ∧
    (AtPoint .decReadMeta (.popped (.bitLen [0#8, 0#8]) (some 1#8))
        (running .decReadMeta (.popped (.bitLen [0#8, 0#8]) (some 1#8)) drained) ∧ [0#8, 0#8].length < 3) ∧
    AtPoint .decReadMeta (.popped (.byteLen [0#8, 0#8]) (some 1#8))
      (running .decReadMeta (.popped (.byteLen [0#8, 0#8]) (some 1#8)) { small with inFifo := [2#8] }) :=
  ⟨.inl rfl, rfl, rfl, by decide, by decide, by decide, by decide, rfl, rfl, ⟨.inl rfl, rfl⟩, ⟨rfl, by decide⟩, rfl⟩

theorem witness_BuReadPayloadCompletes :
    (AtStart .buReadPayload { received with phase := .dPayload, inFifo := [1#8] } ∧ 1 ≤ received.byteLen.toNat) ∧
    (AtPoint .buReadPayload (.popped (.payload 0) (some 1#8))
        (running .buReadPayload (.popped (.payload 0) (some 1#8)) { received with byteLen := 2#32, inFifo := [1#8] }) ∧
      0 < 4 * received.cfg.maxChunk ∧ 0 + 1 < ({ received with byteLen := 2#32 } : State).byteLen.toNat) ∧
    (AtPoint .buReadPayload (.popped (.payload 63) (some 1#8))
        (running .buReadPayload (.popped (.payload 63) (some 1#8)) { received with byteLen := 64#32 }) ∧
      63 < 4 * received.cfg.maxChunk ∧ ({ received with byteLen := 64#32 } : State).byteLen.toNat ≤ 63 + 1) ∧
    (AtStart .buReadPayload { received with phase := .dPayload, byteLen := 0#32 }) ∧
    AtPoint .buReadPayload (.popped (.payload 0) none) (running .buReadPayload (.popped (.payload 0) none) received) ∧
    (AtStart .buReadPayload { received with phase := .dPayload, inClosed := true } ∧ received.inFifo = []) ∧
    AtPoint .buReadPayload (.popped (.payload 0) (some 1#8))
      (running .buReadPayload (.popped (.payload 0) (some 1#8)) { drained with byteLen := 2#32 }) :=
  ⟨⟨.inl rfl, by decide⟩, ⟨rfl, by decide, by decide⟩, ⟨rfl, by decide, by decide⟩, .inl rfl, rfl, ⟨.inl rfl, rfl⟩,
    rfl⟩

theorem witness_DecDecodeCompletes :
    AtPoint .decDecode (.pushed .decoded []) (running .decDecode (.pushed .decoded []) received) ∧
    (AtStart .decDecode { received with bitLen := 0#32 } ∧ received.phase = .dDecode) := ⟨rfl, .inl rfl, rfl⟩

/-- A chunk that decodes, one that is too long for MAX_CHUNK = 3, and one that ends inside a codeword. -/
theorem witness_DecDecodeIsGreedy :
    (Inv (running .decDecode .start received) ∧ (running .decDecode .start received).phase = .dDecode ∧
      greedy received.inverseDict [] received.payloadString =
        (0x41#8 :: [0x41#8, 0x41#8, 0x42#8], true) ∧ received.outFifo.length < received.cfg.outDepth) ∧
    (∃ s, Inv s ∧ AtPoint .decDecode .start s ∧ s.phase = .dDecode ∧
      greedy s.inverseDict [] s.payloadString = ([0x41#8, 0x41#8, 0x41#8, 0x42#8], true) ∧ s.cfg.maxChunk < 4) ∧
    (∃ s, Inv s ∧ AtPoint .decDecode .start s ∧ s.phase = .dDecode ∧
      greedy s.inverseDict [] s.payloadString = ([0x41#8, 0x41#8, 0x41#8], false) ∧ 3 ≤ s.cfg.maxChunk) := by
  refine ⟨⟨inv_received, rfl, by decide +kernel, by decide +kernel⟩,
    ⟨running .decDecode .start { received with
        cfg := { maxChunk := 3, inDepth := 64, outDepth := 64 }, chunkSize := 3#32 },
      inv_of_check (by decide +kernel) (by decide +kernel) (runOk_start rfl), rfl, rfl, by decide +kernel, by decide⟩,
    ⟨running .decDecode .start { received with
        dictLen := tableOf [(0, 1#6), (1, 2#6)], dictVal := tableOf [(1, 3#32)] },
      inv_of_check (by decide +kernel) (by decide +kernel) (runOk_start rfl), rfl, rfl, by decide +kernel, by decide⟩⟩

/-- A step that pushes, a hold, and the last step. -/
theorem witness_NoErrorOnceDecodedBytesArePushed :
    (∃ t, exec .decAll (running .decAll (.pushed .decoded [1#8]) received) = .next t ∧ t.outFifo = [1#8]) ∧
    (∃ t, exec .decAll (running .decAll (.pushed .decoded [1#8])
      { received with outFifo := List.replicate 64 0#8 }) = .next t ∧ t.outCount = 0#32) ∧
    (∃ t, exec .decChunk (running .decChunk (.pushed .decoded []) received) = .next t ∧ t.chunkCount = 1#32) ∧
    received.phase ≠ .error :=
  ⟨gives_exists (by decide +kernel), gives_exists (by decide +kernel), gives_exists (by decide +kernel), by decide⟩

theorem witness_DecCompositesComplete :
    (AtPoint .decAll (.popped (.count []) none) (running .decAll (.popped (.count []) none) small) ∧
      small.phase = .idle) ∧
    AtPoint .decChunk (.pushed .decoded []) (running .decChunk (.pushed .decoded []) received) ∧
    (AtPoint .decAll (.pushed .decoded []) (running .decAll (.pushed .decoded []) { received with inFifo := [1#8] }) ∧
      ({ received with inFifo := [1#8] } : State).inFifo = 1#8 :: []) ∧
    (AtPoint .decAll (.pushed .decoded []) (running .decAll (.pushed .decoded []) { received with inClosed := true }) ∧
      received.inFifo = []) := ⟨⟨rfl, rfl⟩, rfl, ⟨rfl, rfl⟩, rfl, rfl⟩

theorem isRecord4 : IsRecord [0x41#8, 0x41#8, 0x41#8, 0x42#8] record4 :=
  ⟨[0x10#8], by unfold Packed; decide +kernel, by decide +kernel⟩

theorem witness_DecChunkRestoresTheChunk :
    ∃ s : State, IsRecord [0x41#8, 0x41#8, 0x41#8, 0x42#8] record4 ∧ HasRecord [0x41#8, 0x41#8, 0x41#8, 0x42#8] ∧
      [0x41#8, 0x41#8, 0x41#8, 0x42#8].length ≤ s.cfg.maxChunk ∧ s.cfg.wellFormed = true ∧
      AtPoint .decChunk .start s ∧ s.host = [] ∧ s.inReset = false ∧ s.phase = .idle ∧
      s.inFifo = record4 ++ [9#8] ∧
      s.outFifo.length + [0x41#8, 0x41#8, 0x41#8, 0x42#8].length ≤ s.cfg.outDepth :=
  ⟨running .decChunk .start { small with inFifo := record4 ++ [9#8] }, isRecord4, hasRecord4, by decide, by decide,
    rfl, rfl, rfl, rfl, rfl, by decide⟩

/-- The input `41`: ENC_ALL completes, and its container is in the decoder's FIFO. -/
theorem witness_CompressThenDecompressGivesBack :
    ∃ s t d : State, AtPoint .encAll .start s ∧ s.host = [] ∧ s.inReset = false ∧ s.phase = .idle ∧
      s.cfg.wellFormed = true ∧ 1 ≤ s.chunkSize.toNat ∧ s.chunkSize.toNat ≤ s.cfg.maxChunk ∧ s.inFifo = [0x41#8] ∧
      s.inClosed = true ∧ s.outFifo = [] ∧ Host.Core.run Sys2Proof.core 24 s = .next t ∧ t.run = none ∧
      t.phase = .idle ∧ AtPoint .decAll .start d ∧ d.host = [] ∧ d.inReset = false ∧ d.phase = .idle ∧
      d.cfg.wellFormed = true ∧ s.cfg.maxChunk ≤ d.cfg.maxChunk ∧ d.inFifo = t.outFifo ∧ d.inClosed = true ∧
      d.outFifo.length + [0x41#8].length ≤ d.cfg.outDepth := by
  obtain ⟨t, h, hr, hp⟩ := gives_exists
    (o := Host.Core.run Sys2Proof.core 24 (running .encAll .start { small with inFifo := [0x41#8], inClosed := true }))
    (p := fun t => t.run = none ∧ t.phase = .idle) (by decide +kernel)
  have hw : small.cfg.wellFormed = true := by decide
  have hl : small.outFifo.length + [0x41#8].length ≤ small.cfg.outDepth := by decide
  exact ⟨running .encAll .start { small with inFifo := [0x41#8], inClosed := true }, t,
    running .decAll .start { small with inFifo := t.outFifo, inClosed := true }, rfl, rfl, rfl, rfl,
    hw, by decide, by decide, rfl, rfl, rfl, h, hr, hp, rfl, rfl, rfl, rfl, hw, Nat.le_refl _, rfl, rfl, hl⟩

/-! #### Frames, reset and invariants -/

theorem witness_CommandsLeaveTheHostsRegisters :
    (∃ t, exec .nop small = .next t ∧ t.run = none) ∧
    (∃ t, exec .encAll (running .encAll .start { small with inFifo := [1#8] }) = .next t ∧ t.inFifo = []) :=
  ⟨gives_exists (by decide +kernel), gives_exists (by decide +kernel)⟩

theorem witness_TablesAreWrittenOnlyBy :
    hasPoint .tbBuild loaded.point = true ∧ (∃ t, exec .tbBuild loaded = .next t ∧ t.phase = .eTree) :=
  ⟨by decide, gives_exists (by decide +kernel)⟩

theorem witness_StatusFlagsAreSticky :
    ∃ s : State, (∃ t, step s = .next t ∧ t.inFifo = []) ∧ (∀ r, s.run = some r → r.word ≠ encode .clear) ∧
      (∀ rest, s.host ≠ .rstAssert :: rest) ∧ (∀ rest, s.host ≠ .rstRelease :: rest) ∧
      s.endFlag = true ∧ s.inClosed = true ∧ s.cmdDrop = true :=
  ⟨running .encLoad .start { small with inFifo := [1#8], endFlag := true, inClosed := true, cmdDrop := true },
    gives_exists (by decide +kernel), (fun r h => by cases h; decide), (fun _ h => nomatch h), (fun _ h => nomatch h),
    rfl, rfl, rfl⟩

theorem witness_ResetLeavesTheResetState :
    (Move.rstAssert = .rstAssert ∨ Move.rstAssert = .rstRelease) ∧ ({ small with inReset := true } : State).inReset = true :=
  ⟨.inl rfl, rfl⟩

theorem witness_ResetMeetsTheInvariant : ({ maxChunk := 16, inDepth := 64, outDepth := 64 } : Params).wellFormed = true := by
  decide

/-- A step of the host, and a step of the engine. -/
theorem witness_StepKeepsTheInvariant :
    (Inv { small with host := [.send 1#8 true] } ∧
      ∃ t, step { small with host := [.send 1#8 true] } = .next t ∧ t.inFifo = [1#8]) ∧
    (Inv (running .decDecode .start received) ∧
      ∃ t, step (running .decDecode .start received) = .next t ∧ t.outFifo = [0x41#8]) :=
  ⟨⟨inv_of_check (by decide +kernel) (by decide +kernel) (runOk_idle rfl), gives_exists (by decide +kernel)⟩,
    inv_received, gives_exists (by decide +kernel)⟩

theorem witness_NoStepFaults : Inv small := inv_small

theorem witness_StepKeepsConservation :
    Inv loaded ∧ Conserved loaded ∧ ∃ t, step { loaded with host := [.engine] } = .next t ∧ t.host = [] :=
  ⟨inv_of_check (by decide +kernel) (by decide +kernel) (runOk_idle rfl), conserved_loaded,
    gives_exists (by decide +kernel)⟩

end Sys2Proof.Tests
end

/-! ## What a command computes between two stream operations does not depend on the ports
(spec/00_scope.md R13, spec/40_control.md R153) -/

section
namespace Sys2Proof.Machine

/-! ### The ports of a state -/

/-- `s` with the ports of `p`: the FIFO depths, both FIFOs with their counters and IN_CLOSED, and the fields that
only the host's side of the block uses. -/
def State.withPorts (s p : State) : State :=
  { s with
    cfg := { s.cfg with inDepth := p.cfg.inDepth, outDepth := p.cfg.outDepth }
    inFifo := p.inFifo, inCount := p.inCount, inClosed := p.inClosed
    outFifo := p.outFifo, outCount := p.outCount
    irqEn := p.irqEn, cmdDrop := p.cmdDrop, inReset := p.inReset
    free := p.free, host := p.host, replies := p.replies }

/-- The state that a request carries, changed by `f`. -/
def Request.map (f : State → State) : Request → Request
  | .pop s site => .pop (f s) site
  | .push s site b rest => .push (f s) site b rest
  | .done s => .done (f s)
  | .error s c => .error (f s) c
  | .fault x => .fault x

@[simp] theorem Request.map_pop (f : State → State) (s : State) (site : PopSite) :
    (Request.pop s site).map f = .pop (f s) site := rfl
@[simp] theorem Request.map_push (f : State → State) (s : State) (site : PushSite) (b : Byte) (rest : List Byte) :
    (Request.push s site b rest).map f = .push (f s) site b rest := rfl
@[simp] theorem Request.map_done (f : State → State) (s : State) : (Request.done s).map f = .done (f s) := rfl
@[simp] theorem Request.map_error (f : State → State) (s : State) (c : ErrCode) :
    (Request.error s c).map f = .error (f s) c := rfl
@[simp] theorem Request.map_fault (f : State → State) (x : Fault) : (Request.fault x).map f = .fault x := rfl

theorem Request.map_map (f g : State → State) (r : Request) : (r.map f).map g = r.map fun s => g (f s) := by
  cases r <;> rfl

/-- The computation `k` neither reads nor writes the ports. -/
def IgnoresPorts (k : State → Request) : Prop :=
  ∀ s p : State, k (s.withPorts p) = (k s).map (·.withPorts p)

theorem IgnoresPorts.andThen {k next : State → Request} (hk : IgnoresPorts k) (hn : IgnoresPorts next) :
    IgnoresPorts fun s => (k s).andThen next := by
  intro s p
  simp only [hk s p]
  cases k s with
  | pop t site => rfl
  | push t site b rest => rfl
  | done t => exact hn t p
  | error t c => rfl
  | fault x => rfl

theorem IgnoresPorts.ite {c : State → Prop} {dec : DecidablePred c} {k l : State → Request}
    (hc : ∀ s p, c (s.withPorts p) ↔ c s) (hk : IgnoresPorts k) (hl : IgnoresPorts l) :
    IgnoresPorts fun s => if c s then k s else l s := by
  intro s p
  by_cases h : c s
  · simp only [h, (hc s p).mpr h, if_true, hk s p]
  · simp only [h, mt (hc s p).mp h, if_false, hl s p]

theorem ignoresPorts_done : IgnoresPorts .done := fun _ _ => rfl

theorem ignoresPorts_error (c : ErrCode) : IgnoresPorts (.error · c) := fun _ _ => rfl

theorem ignoresPorts_emit {fin : State → Request} (site : PushSite) (bs : List Byte) (hf : IgnoresPorts fin) :
    IgnoresPorts (emit site bs fin) := by
  intro s p
  cases bs with
  | nil => exact hf s p
  | cons b rest => rfl

/-! ### The buffers -/

@[simp] theorem memRead_withPorts (b : Buf) (i : Nat) (s p : State) :
    memRead b i (s.withPorts p) = memRead b i s := by
  cases b <;> rfl

@[simp] theorem memReadList_withPorts (b : Buf) (s p : State) (n i : Nat) :
    memReadList b (s.withPorts p) n i = memReadList b s n i := by
  induction n generalizing i with
  | zero => rfl
  | succ n ih => simp only [memReadList, memRead_withPorts, ih]

theorem memWrite_withPorts (b : Buf) (i : Nat) (v : Byte) (s p : State) :
    memWrite b i v (s.withPorts p) = (memWrite b i v s).map (·.withPorts p) := by
  cases b <;> unfold memWrite <;> rw [apply_ite (Except.map _)] <;> rfl

/-! ### The Bodies of the encoder -/

theorem ignoresPorts_encLoadFinish (k : Nat) : IgnoresPorts (encLoadFinish k) :=
  .ite (fun _ _ => Iff.rfl) (fun _ _ => rfl) (fun _ _ => rfl)

theorem ignoresPorts_encLoadLoop (cs k : Nat) : IgnoresPorts (encLoadLoop cs k) :=
  .ite (fun _ _ => Iff.rfl) (fun _ _ => rfl) (ignoresPorts_encLoadFinish k)

theorem ignoresPorts_encLoadStart : IgnoresPorts encLoadStart := fun s p =>
  ignoresPorts_encLoadLoop s.chunkSize.toNat 0
    { s with freq := Table.zero 32, freqSpec := true, bitLen := 0#32, byteLen := 0#32 } p

theorem ignoresPorts_encLoadGot (cs k : Nat) (b : Option Byte) : IgnoresPorts (encLoadGot cs k b) := by
  intro s p
  cases b with
  | none => exact ignoresPorts_encLoadFinish k s p
  | some b =>
    simp only [encLoadGot, memWrite_withPorts]
    cases memWrite .chunk k b s with
    | error f => rfl
    | ok t =>
      exact ignoresPorts_encLoadLoop cs (k + 1)
        { t with freq := Table.put t.freq b.toNat (Table.entry t.freq b.toNat + 1) } p

theorem ignoresPorts_tbBuildBody : IgnoresPorts tbBuildBody := fun _ _ => rfl

theorem ignoresPorts_ctGenBody : IgnoresPorts ctGenBody :=
  .ite (fun _ _ => Iff.rfl) (fun _ _ => rfl) (fun _ _ => rfl)

theorem ignoresPorts_emitDictFinish : IgnoresPorts emitDictFinish := fun _ _ => rfl

theorem ignoresPorts_emitDictStart : IgnoresPorts emitDictStart :=
  fun s p => ignoresPorts_emit .dict (dictBytes s) ignoresPorts_emitDictFinish s p

theorem ignoresPorts_packFinish : IgnoresPorts packFinish := fun _ _ => rfl

theorem ignoresPorts_packStart : IgnoresPorts packStart := by
  intro s p
  have hread : memReadList .chunk (s.withPorts p) (s.withPorts p).curLen.toNat 0 =
      memReadList .chunk s s.curLen.toNat 0 := memReadList_withPorts _ s p _ _
  simp only [packStart, hread]
  cases memReadList .chunk s s.curLen.toNat 0 with
  | error f => rfl
  | ok chunk => exact ignoresPorts_emit .pack _ ignoresPorts_packFinish s p

theorem ignoresPorts_afterLoad : IgnoresPorts afterLoad :=
  .ite (fun _ _ => Iff.rfl) ignoresPorts_done
    ((ignoresPorts_tbBuildBody.andThen ignoresPorts_ctGenBody).andThen ignoresPorts_emitDictStart)

/-! ### The Bodies of the decoder -/

theorem ignoresPorts_readCountStart : IgnoresPorts readCountStart := fun _ _ => rfl

theorem ignoresPorts_readCountCheck (n : Word) : IgnoresPorts (readCountCheck n) :=
  .ite (fun _ _ => Iff.rfl) (fun _ _ => rfl) (fun _ _ => rfl)

theorem ignoresPorts_readCountGot (got : List Byte) (b : Option Byte) : IgnoresPorts (readCountGot got b) := by
  intro s p
  cases b with
  | none => cases got <;> rfl
  | some b =>
    simp only [readCountGot]
    split
    · exact ignoresPorts_readCountCheck _ s p
    · rfl

theorem ignoresPorts_entriesLoop (i : Nat) : IgnoresPorts (entriesLoop i) :=
  .ite (fun _ _ => Iff.rfl) (fun _ _ => rfl) (fun _ _ => rfl)

theorem ignoresPorts_readEntriesStart : IgnoresPorts readEntriesStart := ignoresPorts_entriesLoop 0

theorem ignoresPorts_entryCheck (i : Nat) (sym L : Byte) (v : Word) : IgnoresPorts (entryCheck i sym L v) :=
  .ite (fun _ _ => Iff.rfl) (ignoresPorts_error _) <|
    .ite (fun _ _ => Iff.rfl) (ignoresPorts_error _) fun s p =>
      ignoresPorts_entriesLoop (i + 1) (writeEntry i sym L (v &&& lowMask L.toNat) s) p

theorem ignoresPorts_entryGot (i : Nat) (got : List Byte) (b : Option Byte) : IgnoresPorts (entryGot i got b) := by
  intro s p
  cases b with
  | none => rfl
  | some b =>
    simp only [entryGot]
    split
    · exact ignoresPorts_entryCheck i _ _ _ s p
    · rfl

theorem ignoresPorts_readMetaStart : IgnoresPorts readMetaStart := fun _ _ => rfl

theorem ignoresPorts_bitLenGot (got : List Byte) (b : Option Byte) : IgnoresPorts (bitLenGot got b) := by
  intro s p
  cases b with
  | none => rfl
  | some b => simp only [bitLenGot]; split <;> rfl

theorem ignoresPorts_metaCheck : IgnoresPorts metaCheck :=
  .ite (fun _ _ => Iff.rfl) (ignoresPorts_error _) <|
    .ite (fun _ _ => Iff.rfl) (ignoresPorts_error _) (fun _ _ => rfl)

theorem ignoresPorts_byteLenGot (got : List Byte) (b : Option Byte) : IgnoresPorts (byteLenGot got b) := by
  intro s p
  cases b with
  | none => rfl
  | some b =>
    simp only [byteLenGot]
    split
    · next b0 b1 b2 b3 _ _ => exact ignoresPorts_metaCheck { s with byteLen := fromBe32 b0 b1 b2 b3 } p
    · rfl

theorem ignoresPorts_payloadLoop (t : Nat) : IgnoresPorts (payloadLoop t) :=
  .ite (fun _ _ => Iff.rfl) (fun _ _ => rfl) (fun _ _ => rfl)

theorem ignoresPorts_payloadStart : IgnoresPorts payloadStart := ignoresPorts_payloadLoop 0

theorem ignoresPorts_payloadGot (t : Nat) (b : Option Byte) : IgnoresPorts (payloadGot t b) := by
  intro s p
  cases b with
  | none => rfl
  | some b =>
    simp only [payloadGot, memWrite_withPorts]
    cases memWrite .payload t b s with
    | error f => rfl
    | ok u => exact ignoresPorts_payloadLoop (t + 1) u p

theorem ignoresPorts_decodeFinish : IgnoresPorts decodeFinish := fun _ _ => rfl

theorem ignoresPorts_decodeEmit (k : Nat) : IgnoresPorts (decodeEmit k) := by
  intro s p
  simp only [decodeEmit, memReadList_withPorts]
  cases memReadList .chunk s k 0 with
  | error f => rfl
  | ok bs =>
    exact ignoresPorts_emit .decoded bs ignoresPorts_decodeFinish { s with curLen := BitVec.ofNat 32 k } p

@[simp] theorem payloadBit_withPorts (j : Nat) (s p : State) :
    payloadBit j (s.withPorts p) = payloadBit j s := by
  simp only [payloadBit, memRead_withPorts]

/-- A decoded symbol is stored, unless CHUNK_BUF is full, and the next candidate is empty (spec/44_decoder.md R250). -/
theorem ignoresPorts_storeDecoded (k : Nat) (sym : Byte) {next : State → Request} (hn : IgnoresPorts next) :
    IgnoresPorts fun s =>
      if k = s.cfg.maxChunk then .error s .outputTooLarge
      else
        match memWrite .chunk k sym s with
        | .error f => .fault f
        | .ok s => next { s with cand := some Cand.empty } := by
  refine .ite (fun _ _ => Iff.rfl) (ignoresPorts_error _) fun s p => ?_
  simp only [memWrite_withPorts]
  cases memWrite .chunk k sym s with
  | error f => rfl
  | ok t => exact hn { t with cand := some Cand.empty } p

/-- What R250's loop does with the candidate `c`: it is too long, it needs another bit, or it is a codeword. -/
theorem ignoresPorts_decodeCandidate (c : Cand) {more : State → Request} {found : Byte → State → Request}
    (hm : IgnoresPorts more) (hf : ∀ sym, IgnoresPorts (found sym)) :
    IgnoresPorts fun s =>
      if c.cl > 32 then .error s .unmatchedBits
      else
        match dictLookup c s with
        | none => more s
        | some sym => found sym s := by
  refine .ite (fun _ _ => Iff.rfl) (ignoresPorts_error _) fun s p => ?_
  have hlook : dictLookup c (s.withPorts p) = dictLookup c s := rfl
  simp only [hlook]
  cases dictLookup c s with
  | none => exact hm s p
  | some sym => exact hf sym s p

theorem ignoresPorts_decodeLoop (todo j k : Nat) : IgnoresPorts (decodeLoop todo j k) := by
  induction todo generalizing j k with
  | zero => exact .ite (fun _ _ => Iff.rfl) (ignoresPorts_error _) (ignoresPorts_decodeEmit k)
  | succ todo ih =>
    intro s p
    simp only [decodeLoop, payloadBit_withPorts]
    cases payloadBit j s with
    | error f => rfl
    | ok bit =>
      exact ignoresPorts_decodeCandidate (s.candidate.append bit) (ih (j + 1) k)
        (fun sym => ignoresPorts_storeDecoded k sym (ih (j + 1) (k + 1)))
        { s with cand := some (s.candidate.append bit) } p

theorem ignoresPorts_decodeStart : IgnoresPorts decodeStart := fun s p =>
  ignoresPorts_decodeLoop s.bitLen.toNat 0 0 { s with cand := some Cand.empty } p

theorem ignoresPorts_afterCount : IgnoresPorts afterCount :=
  .ite (fun _ _ => Iff.rfl) ignoresPorts_done
    (ignoresPorts_readEntriesStart.andThen ignoresPorts_readMetaStart)

/-! ### The commands -/

theorem ignoresPorts_afterPop (site : PopSite) (b : Option Byte) : IgnoresPorts (afterPop site b) := by
  cases site with
  | load cs k => exact ignoresPorts_encLoadGot cs k b
  | count got => exact ignoresPorts_readCountGot got b
  | entry i got => exact ignoresPorts_entryGot i got b
  | bitLen got => exact ignoresPorts_bitLenGot got b
  | byteLen got => exact ignoresPorts_byteLenGot got b
  | payload t => exact ignoresPorts_payloadGot t b

theorem ignoresPorts_afterPush (site : PushSite) (rest : List Byte) : IgnoresPorts (afterPush site rest) := by
  cases site with
  | dict => exact ignoresPorts_emit .dict rest ignoresPorts_emitDictFinish
  | pack => exact ignoresPorts_emit .pack rest ignoresPorts_packFinish
  | decoded => exact ignoresPorts_emit .decoded rest ignoresPorts_decodeFinish

theorem ignoresPorts_encChunkNext (b : Body) : IgnoresPorts (encChunkNext b) := by
  cases b with
  | load => exact ignoresPorts_afterLoad
  | dict => exact ignoresPorts_packStart
  | pack | count | entries | lengths | payload | decode => exact ignoresPorts_done

theorem ignoresPorts_encAllNext (b : Body) : IgnoresPorts (encAllNext b) := by
  cases b with
  | load => exact ignoresPorts_afterLoad
  | dict => exact ignoresPorts_packStart
  | pack => exact ignoresPorts_encLoadStart.andThen ignoresPorts_afterLoad
  | count | entries | lengths | payload | decode => exact ignoresPorts_done

theorem ignoresPorts_decChunkNext (b : Body) : IgnoresPorts (decChunkNext b) := by
  cases b with
  | count => exact ignoresPorts_afterCount
  | entries => exact ignoresPorts_readMetaStart
  | lengths => exact ignoresPorts_payloadStart.andThen ignoresPorts_decodeStart
  | payload => exact ignoresPorts_decodeStart
  | load | dict | pack | decode => exact ignoresPorts_done

theorem ignoresPorts_decAllNext (b : Body) : IgnoresPorts (decAllNext b) := by
  cases b with
  | count => exact ignoresPorts_afterCount
  | entries => exact ignoresPorts_readMetaStart
  | lengths =>
    exact (ignoresPorts_payloadStart.andThen ignoresPorts_decodeStart).andThen ignoresPorts_readCountStart
  | payload => exact ignoresPorts_decodeStart.andThen ignoresPorts_readCountStart
  | decode => exact ignoresPorts_readCountStart
  | load | dict | pack => exact ignoresPorts_done

theorem ignoresPorts_nextOf (i : Instr) (b : Body) : IgnoresPorts (nextOf i b) := by
  cases i with
  | encChunk => exact ignoresPorts_encChunkNext b
  | encAll => exact ignoresPorts_encAllNext b
  | decChunk => exact ignoresPorts_decChunkNext b
  | decAll => exact ignoresPorts_decAllNext b
  | nop | clear | encLoad | tbBuild | ctGen | encEmitDict | bpPack | decReadCount | decReadEntries | decReadMeta
  | buReadPayload | decDecode => exact ignoresPorts_done

/-- CLEAR's Body alone is about the ports: it empties both FIFOs (spec/40_control.md R156). -/
theorem ignoresPorts_bodyOf {i : Instr} (h : i ≠ .clear) : IgnoresPorts (bodyOf i) := by
  cases i with
  | clear => exact absurd rfl h
  | nop => exact ignoresPorts_done
  | encLoad => exact ignoresPorts_encLoadStart
  | tbBuild => exact ignoresPorts_tbBuildBody
  | ctGen => exact ignoresPorts_ctGenBody
  | encEmitDict => exact ignoresPorts_emitDictStart
  | bpPack => exact ignoresPorts_packStart
  | encChunk | encAll => exact ignoresPorts_encLoadStart.andThen ignoresPorts_afterLoad
  | decReadCount | decChunk | decAll => exact ignoresPorts_readCountStart
  | decReadEntries => exact ignoresPorts_readEntriesStart
  | decReadMeta => exact ignoresPorts_readMetaStart
  | buReadPayload => exact ignoresPorts_payloadStart
  | decDecode => exact ignoresPorts_decodeStart

/-- Between two stream operations every command but a CLEAR at its start leaves the ports alone. -/
theorem compute_withPorts {i : Instr} {s : State} (h : i ≠ .clear ∨ s.point ≠ .start) (p : State) :
    compute i (bodyOf i) (nextOf i) (s.withPorts p) =
      (compute i (bodyOf i) (nextOf i) s).map (·.withPorts p) := by
  have hpoint : (s.withPorts p).point = s.point := rfl
  have hphase : (s.withPorts p).phase = s.phase := rfl
  unfold compute
  rw [hpoint, hphase]
  cases hp : s.point with
  | start =>
    rcases allowedIn i s.phase
    · rfl
    · exact ignoresPorts_bodyOf (h.resolve_right (not_not_intro hp)) s p
  | popped site b => exact (ignoresPorts_afterPop site b).andThen (ignoresPorts_nextOf i site.body) s p
  | pushed site rest => exact (ignoresPorts_afterPush site rest).andThen (ignoresPorts_nextOf i site.body) s p

/-- Where the computation arrives, the ports are those it began with. -/
theorem compute_keeps_ports {i : Instr} {s : State} (h : i ≠ .clear ∨ s.point ≠ .start) :
    (compute i (bodyOf i) (nextOf i) s).map (·.withPorts s) = compute i (bodyOf i) (nextOf i) s :=
  (compute_withPorts h s).symm

/-- A CLEAR at its start, in any phase, is its Body. -/
theorem compute_clear {s : State} (h : s.point = .start) :
    compute .clear (bodyOf .clear) (nextOf .clear) s = clearBody s := by
  rw [compute, h]; rfl

/-! ### The depths -/

/-- The FIFO depths have no part in what a command computes. -/
theorem compute_withDepths (i : Instr) (s : State) (inDepth outDepth : Nat) :
    compute i (bodyOf i) (nextOf i) (s.withDepths inDepth outDepth) =
      (compute i (bodyOf i) (nextOf i) s).map (·.withDepths inDepth outDepth) := by
  by_cases h : i ≠ .clear ∨ s.point ≠ .start
  · calc compute i (bodyOf i) (nextOf i) (s.withDepths inDepth outDepth)
        = (compute i (bodyOf i) (nextOf i) s).map (·.withPorts (s.withDepths inDepth outDepth)) :=
          compute_withPorts h (s.withDepths inDepth outDepth)
      _ = ((compute i (bodyOf i) (nextOf i) s).map (·.withPorts s)).map (·.withDepths inDepth outDepth) := by
          rw [Request.map_map]; rfl
      _ = (compute i (bodyOf i) (nextOf i) s).map (·.withDepths inDepth outDepth) := by
          rw [compute_keeps_ports h]
  · obtain ⟨rfl, hp⟩ : i = .clear ∧ s.point = .start := by simpa using h
    rw [compute_clear hp, compute_clear (s := s.withDepths inDepth outDepth) hp]
    rfl

/-- A command that arrives at an OutPush has left the output FIFO and its depth as they were. -/
theorem compute_eq_push {i : Instr} {s t : State} {site : PushSite} {b : Byte} {rest : List Byte}
    (h : compute i (bodyOf i) (nextOf i) s = .push t site b rest) :
    t.outFifo = s.outFifo ∧ t.cfg.outDepth = s.cfg.outDepth := by
  have hne : i ≠ .clear ∨ s.point ≠ .start := by
    by_contra hn
    obtain ⟨rfl, hp⟩ : i = .clear ∧ s.point = .start := by simpa using hn
    rw [compute_clear hp] at h
    cases h
  have hkeep := compute_keeps_ports hne
  rw [h] at hkeep
  have ht : t.withPorts s = t := by simpa using hkeep
  rw [← ht]
  exact ⟨rfl, rfl⟩

/-- The outcome of a step, with other FIFO depths in the next state. -/
def outcomeWithDepths (inDepth outDepth : Nat) :
    Host.Outcome State Fault Refusal → Host.Outcome State Fault Refusal
  | .next t => .next (t.withDepths inDepth outDepth)
  | .fault f => .fault f
  | .refused x => .refused x

/-- A step that ends the same way at other depths, where its OutPush finds room at both. -/
theorem finishStep_withDepths {r : Request} {inDepth outDepth : Nat} (s0 : State)
    (hroom : ∀ t site b rest, r = .push t site b rest →
      t.outFifo.length < t.cfg.outDepth ∧ t.outFifo.length < outDepth) :
    finishStep (s0.withDepths inDepth outDepth) (r.map (·.withDepths inDepth outDepth)) =
      outcomeWithDepths inDepth outDepth (finishStep s0 r) := by
  cases r with
  | pop t site =>
    rcases inPop_cases t with ⟨b, rest, hf, -⟩ | ⟨hf, hc, -⟩ | ⟨hf, hc, -⟩
    · rw [finishStep_pop_byte hf]; exact finishStep_pop_byte (s := t.withDepths inDepth outDepth) hf
    · rw [finishStep_pop_eof hf hc]; exact finishStep_pop_eof (s := t.withDepths inDepth outDepth) hf hc
    · rw [finishStep_pop_hold hf hc]; exact finishStep_pop_hold (s := t.withDepths inDepth outDepth) hf hc
  | push t site b rest =>
    obtain ⟨ht, hd⟩ := hroom t site b rest rfl
    rw [finishStep_push ht]
    exact finishStep_push (s := t.withDepths inDepth outDepth) hd
  | done t => rfl
  | error t c => rfl
  | fault f => rfl

theorem accept_withDepths (i : Instr) (s : State) (inDepth outDepth : Nat) :
    (s.withDepths inDepth outDepth).accept i = (s.accept i).withDepths inDepth outDepth := by
  cases h : s.run with
  | none => rw [accept_of_idle h]; exact accept_of_idle (s := s.withDepths inDepth outDepth) h
  | some r => rw [accept_of_run h]; exact accept_of_run (s := s.withDepths inDepth outDepth) h

/-- Accepting a command is no transfer. -/
theorem accept_output (i : Instr) (s : State) :
    (s.accept i).outFifo = s.outFifo ∧ (s.accept i).cfg = s.cfg := by
  unfold State.accept
  split <;> exact ⟨rfl, rfl⟩

theorem exec_withDepths (i : Instr) {s : State} {inDepth outDepth : Nat}
    (hs : s.outFifo.length < s.cfg.outDepth) (hd : s.outFifo.length < outDepth) :
    exec i (s.withDepths inDepth outDepth) = outcomeWithDepths inDepth outDepth (exec i s) := by
  rw [exec_eq_engineStep, exec_eq_engineStep, engineStep, engineStep, accept_withDepths, compute_withDepths]
  refine finishStep_withDepths _ fun t site b rest h => ?_
  obtain ⟨hfifo, hdepth⟩ := compute_eq_push h
  obtain ⟨hfifo', hcfg'⟩ := accept_output i s
  rw [hfifo, hdepth, hfifo', hcfg']
  exact ⟨hs, hd⟩

/-- Settles O20. Between stream operations a command does not see the ports, and where there is room its OutPush
succeeds at both depths. -/
theorem depthsDoNotMatter : Obligations.DepthsDoNotMatter := by
  intro i s inDepth outDepth hs hd
  rw [exec_withDepths i hs hd]
  constructor
  · intro t h; rw [h]; rfl
  · intro f h; rw [h]; rfl

end Sys2Proof.Machine
end

/-! ## The reset state meets the invariant (spec/70_reset_and_hazards.md R350) -/

section
namespace Sys2Proof.Machine

theorem params_wellFormed_iff (c : Params) :
    c.wellFormed = true ↔
      1 ≤ c.maxChunk ∧ c.maxChunk ≤ 134217727 ∧ 1 ≤ c.inDepth ∧ 1 ≤ c.outDepth := by
  simp [Params.wellFormed, and_assoc]

@[simp] theorem entry_codeLen_resetOf (c : Params) (i : Nat) : Table.entry (State.resetOf c).codeLen i = 0#6 :=
  Table.entry_zero 6 i

@[simp] theorem entry_dictLen_resetOf (c : Params) (i : Nat) : Table.entry (State.resetOf c).dictLen i = 0#6 :=
  Table.entry_zero 6 i

@[simp] theorem entry_dictVal_resetOf (c : Params) (i : Nat) : Table.entry (State.resetOf c).dictVal i = 0#32 :=
  Table.entry_zero 32 i

/-- CHUNK_SIZE holds MAX_CHUNK exactly: R11 keeps it below 2^32. -/
theorem chunkSize_resetOf {c : Params} (h : c.wellFormed = true) :
    (State.resetOf c).chunkSize.toNat = c.maxChunk := by
  obtain ⟨-, hmax, -, -⟩ := (params_wellFormed_iff c).mp h
  exact BitVec.toNat_ofNat .. |>.trans (Nat.mod_eq_of_lt (by omega))

theorem sized_resetOf {c : Params} (h : c.wellFormed = true) : Sized (State.resetOf c) where
  cfg := h
  chunkSize := by
    obtain ⟨hpos, -, -, -⟩ := (params_wellFormed_iff c).mp h
    rw [chunkSize_resetOf h]
    exact ⟨hpos, le_rfl⟩
  inFifo := Nat.zero_le _
  outFifo := Nat.zero_le _
  chunkBuf := ⟨wf_reset c .chunk, fun _ hc => nomatch hc⟩
  payloadBuf := ⟨wf_reset c .payload, fun _ hc => nomatch hc⟩
  codeLen i := by simp
  dictLen i := by simp
  dictVal i := by simp
  curLen := Nat.zero_le _

/-- Reset leaves PHASE = IDLE, ERR_CODE = 0, no command, no tree and no candidate. -/
theorem controlled_resetOf (c : Params) : Controlled (State.resetOf c) where
  error := by simp [State.resetOf]
  errorRun := nofun
  dict _ := Nat.zero_le _
  payload := by simp [State.resetOf]
  tree _ := ⟨rfl, rfl⟩
  cand hc := absurd rfl hc
  run := nofun
  reset _ := rfl

/-- In PHASE = IDLE with no command, conservation says nothing. -/
theorem conserved_resetOf (c : Params) : Conserved (State.resetOf c) where
  loaded := by simp [State.resetOf]
  loading := nofun

/-- Settles O57, field by field of the invariant. -/
theorem resetMeetsTheInvariant : Obligations.ResetMeetsTheInvariant := fun c h =>
  ⟨⟨sized_resetOf h, controlled_resetOf c⟩, conserved_resetOf c⟩

end Sys2Proof.Machine
end

/-! ## What a command writes between two stream operations
(spec/10_state.md R33, R51 to R54; spec/40_control.md R153; spec/60_exceptions.md R300) -/

section
namespace Sys2Proof.Machine

/-! ### Postconditions of a computation -/

/-- What is claimed of the state that each kind of request carries. -/
structure Post where
  pop   : State → PopSite → Prop
  push  : State → PushSite → Prop
  done  : State → Prop
  error : State → ErrCode → Prop
  fault : Prop

/-- The request meets the postcondition. -/
def Request.Meets (P : Post) : Request → Prop
  | .pop s site => P.pop s site
  | .push s site _ _ => P.push s site
  | .done s => P.done s
  | .error s c => P.error s c
  | .fault _ => P.fault

/-- The rule of composition: what holds where the first part ends is what the second part may assume. -/
theorem Request.Meets.andThen {P : Post} {D : State → Prop} {r : Request} {k : State → Request}
    (hr : r.Meets { P with done := D }) (hk : ∀ u, D u → (k u).Meets P) : (r.andThen k).Meets P := by
  cases r with
  | pop s site => exact hr
  | push s site b rest => exact hr
  | done s => exact hk s hr
  | error s c => exact hr
  | fault f => exact hr

/-- A weaker postcondition holds too. -/
theorem Request.Meets.mono {P Q : Post} {r : Request} (h : r.Meets P) (hpop : ∀ s site, P.pop s site → Q.pop s site)
    (hpush : ∀ s site, P.push s site → Q.push s site) (hdone : ∀ s, P.done s → Q.done s)
    (herror : ∀ s c, P.error s c → Q.error s c) (hfault : P.fault → Q.fault) : r.Meets Q := by
  cases r with
  | pop s site => exact hpop _ _ h
  | push s site b rest => exact hpush _ _ h
  | done s => exact hdone _ h
  | error s c => exact herror _ _ h
  | fault f => exact hfault h

/-! ### The frame of a computation -/

/-- The stores that only some commands write: the tables (R51, R52, R54) and the buffers (R80). -/
inductive Store where
  | freq | code | dict | chunk | payload
  deriving DecidableEq

/-- What a computation that may write the stores in `W` leaves as it was, from `s` to `u`: everything else that no
command but CLEAR writes, END once it is set, and a phase that is not ERROR. -/
structure Frame (W : Store → Prop) (s u : State) : Prop where
  cfg        : u.cfg = s.cfg := by rfl
  chunkSize  : u.chunkSize = s.chunkSize := by rfl
  irqStatus  : u.irqStatus = s.irqStatus := by rfl
  run        : u.run = s.run := by rfl
  epoch      : u.epoch = s.epoch := by rfl
  endFlag    : s.endFlag = true → u.endFlag = true := by exact id
  phase      : s.phase ≠ .error → u.phase ≠ .error := by exact id
  freq       : ¬ W .freq → u.freq = s.freq := by exact fun _ => rfl
  codeLen    : ¬ W .code → u.codeLen = s.codeLen := by exact fun _ => rfl
  codeVal    : ¬ W .code → u.codeVal = s.codeVal := by exact fun _ => rfl
  dictSym    : ¬ W .dict → u.dictSym = s.dictSym := by exact fun _ => rfl
  dictLen    : ¬ W .dict → u.dictLen = s.dictLen := by exact fun _ => rfl
  dictVal    : ¬ W .dict → u.dictVal = s.dictVal := by exact fun _ => rfl
  chunkBuf   : ¬ W .chunk → u.chunkBuf = s.chunkBuf := by exact fun _ => rfl
  payloadBuf : ¬ W .payload → u.payloadBuf = s.payloadBuf := by exact fun _ => rfl

theorem Frame.refl {W : Store → Prop} (s : State) : Frame W s s where

theorem Frame.trans {W : Store → Prop} {s u v : State} (h : Frame W s u) (k : Frame W u v) : Frame W s v where
  cfg := k.cfg.trans h.cfg
  chunkSize := k.chunkSize.trans h.chunkSize
  irqStatus := k.irqStatus.trans h.irqStatus
  run := k.run.trans h.run
  epoch := k.epoch.trans h.epoch
  endFlag := k.endFlag ∘ h.endFlag
  phase := k.phase ∘ h.phase
  freq hw := (k.freq hw).trans (h.freq hw)
  codeLen hw := (k.codeLen hw).trans (h.codeLen hw)
  codeVal hw := (k.codeVal hw).trans (h.codeVal hw)
  dictSym hw := (k.dictSym hw).trans (h.dictSym hw)
  dictLen hw := (k.dictLen hw).trans (h.dictLen hw)
  dictVal hw := (k.dictVal hw).trans (h.dictVal hw)
  chunkBuf hw := (k.chunkBuf hw).trans (h.chunkBuf hw)
  payloadBuf hw := (k.payloadBuf hw).trans (h.payloadBuf hw)

/-- From `s` the computation keeps the frame; where it ends, `D` holds too; and an error `c` comes in a phase `p` with
`E p c`, before the chunk is counted. -/
def Request.Framed (r : Request) (W : Store → Prop) (s : State) (D : State → Prop) (E : Phase → ErrCode → Prop) :
    Prop :=
  r.Meets {
    pop := fun u _ => Frame W s u
    push := fun u _ => Frame W s u
    done := fun u => Frame W s u ∧ D u
    error := fun u c => Frame W s u ∧ u.chunkCount = s.chunkCount ∧ E u.phase c
    fault := True }

/-- A computation that raises no error. -/
def noError (_ : Phase) (_ : ErrCode) : Prop := False

/-- No claim about the state where a computation ends. -/
def anyEnd (_ : State) : Prop := True

section
variable {W : Store → Prop} {s u : State} {D D' : State → Prop} {E E' : Phase → ErrCode → Prop} {r : Request}

theorem Request.Framed.mono (h : r.Framed W s D E) (hD : ∀ u, D u → D' u) (hE : ∀ p c, E p c → E' p c) :
    r.Framed W s D' E' :=
  Request.Meets.mono h (fun _ _ => id) (fun _ _ => id) (fun _ ⟨hf, hd⟩ => ⟨hf, hD _ hd⟩)
    (fun _ _ ⟨hf, hcount, he⟩ => ⟨hf, hcount, hE _ _ he⟩) id

/-- A computation that raises no error raises only the errors of any kind one likes. -/
theorem Request.Framed.of_noError (h : r.Framed W s D noError) (hD : ∀ u, D u → D' u) : r.Framed W s D' E :=
  h.mono hD fun _ _ => False.elim

/-- The frame of what follows a first part, seen from where that part began. -/
theorem Request.Framed.after (h : r.Framed W u D E) (hu : Frame W s u) (hcount : u.chunkCount = s.chunkCount) :
    r.Framed W s D E :=
  Request.Meets.mono h (fun _ _ => hu.trans) (fun _ _ => hu.trans) (fun _ ⟨hf, hd⟩ => ⟨hu.trans hf, hd⟩)
    (fun _ _ ⟨hf, hc, he⟩ => ⟨hu.trans hf, hc.trans hcount, he⟩) id

/-- Where what follows raises no error, the first part may have counted the chunk. -/
theorem Request.Framed.after_noError (h : r.Framed W u D noError) (hu : Frame W s u) : r.Framed W s D E :=
  Request.Meets.mono h (fun _ _ => hu.trans) (fun _ _ => hu.trans) (fun _ ⟨hf, hd⟩ => ⟨hu.trans hf, hd⟩)
    (fun _ _ ⟨_, _, he⟩ => he.elim) id

theorem Request.Framed.andThen {k : State → Request} (hr : r.Framed W s D E)
    (hk : ∀ u, Frame W s u → D u → (k u).Framed W s D' E) : (r.andThen k).Framed W s D' E :=
  Request.Meets.andThen hr fun u ⟨hf, hd⟩ => hk u hf hd

theorem framed_emit {fin : State → Request} (site : PushSite) (bs : List Byte) (h : (fin s).Framed W s D E) :
    (emit site bs fin s).Framed W s D E := by
  cases bs with
  | nil => exact h
  | cons b rest => exact Frame.refl s

end

/-! ### The Bodies of the encoder -/

section
variable {W : Store → Prop}

theorem framed_encLoadFinish (k : Nat) (s : State) :
    (encLoadFinish k s).Framed W s (fun u => u.chunkCount = s.chunkCount ∧ u.curLen = BitVec.ofNat 32 k)
      noError := by
  unfold encLoadFinish
  split
  · exact ⟨{ endFlag := fun _ => rfl }, rfl, rfl⟩
  · exact ⟨{ phase := nofun }, rfl, rfl⟩

theorem framed_encLoadLoop (cs k : Nat) (s : State) :
    (encLoadLoop cs k s).Framed W s
      (fun u => u.chunkCount = s.chunkCount ∧ (k = 0 → u.curLen = 0#32)) noError := by
  unfold encLoadLoop
  split
  · exact Frame.refl s
  · exact (framed_encLoadFinish k s).mono (fun _ ⟨hcount, hlen⟩ => ⟨hcount, fun hk => by rw [hlen, hk]⟩)
      (fun _ _ => id)

theorem framed_encLoadStart (hW : W .freq) (s : State) :
    (encLoadStart s).Framed W s (fun u => u.curLen = 0#32) noError := by
  unfold encLoadStart
  exact .after ((framed_encLoadLoop _ 0 _).mono (fun _ h => h.2 rfl) fun _ _ => id) { freq := absurd hW } rfl

theorem framed_encLoadGot (hF : W .freq) (hC : W .chunk) (cs k : Nat) (b : Option Byte) (s : State) :
    (encLoadGot cs k b s).Framed W s (fun u => u.chunkCount = s.chunkCount) noError := by
  cases b with
  | none => exact (framed_encLoadFinish k s).mono (fun _ => And.left) fun _ _ => id
  | some b =>
    simp only [encLoadGot]
    cases h : memWrite .chunk k b s with
    | error f => trivial
    | ok t =>
      obtain ⟨-, rfl⟩ := memWrite_ok.mp h
      exact .after ((framed_encLoadLoop cs (k + 1) _).mono (fun _ => And.left) fun _ _ => id)
        { freq := absurd hF, chunkBuf := absurd hC } rfl

theorem framed_tbBuildBody (s : State) :
    (tbBuildBody s).Framed W s (fun u => u.chunkCount = s.chunkCount ∧ u.phase = .eTree) noError :=
  ⟨{ phase := nofun }, rfl, rfl⟩

theorem framed_ctGenBody (hW : W .code) (s : State) :
    (ctGenBody s).Framed W s anyEnd fun p c => p = s.phase ∧ c = .codeTooLong := by
  unfold ctGenBody
  dsimp only
  split
  · exact ⟨{}, rfl, rfl, rfl⟩
  · exact ⟨{ phase := nofun, codeLen := absurd hW, codeVal := absurd hW }, trivial⟩

theorem framed_emitDictFinish (s : State) : (emitDictFinish s).Framed W s anyEnd noError :=
  ⟨{ phase := nofun }, trivial⟩

theorem framed_emitDictStart (s : State) : (emitDictStart s).Framed W s anyEnd noError :=
  framed_emit .dict _ (framed_emitDictFinish s)

theorem framed_packFinish (s : State) : (packFinish s).Framed W s anyEnd noError :=
  ⟨{ phase := nofun }, trivial⟩

theorem framed_packStart (s : State) : (packStart s).Framed W s anyEnd noError := by
  unfold packStart
  cases memReadList .chunk s s.curLen.toNat 0 with
  | error f => trivial
  | ok chunk => exact framed_emit .pack _ (framed_packFinish s)

/-- CODE_TOO_LONG is the one error of an ENC_CHUNK or ENC_ALL (spec/41_encoder.md R180). -/
theorem framed_afterLoad (hW : W .code) (s : State) :
    (afterLoad s).Framed W s anyEnd fun p c => p = .eTree ∧ c = .codeTooLong := by
  unfold afterLoad
  split
  · exact ⟨Frame.refl s, trivial⟩
  · refine Request.Framed.andThen (D := anyEnd) ?_ fun u hu _ => (framed_emitDictStart u).after_noError hu
    refine ((framed_tbBuildBody s).of_noError fun _ => id).andThen fun u hu hend => ?_
    exact .after ((framed_ctGenBody hW u).mono (fun _ => id) fun p c h => ⟨h.1.trans hend.2, h.2⟩) hu hend.1

/-- With no byte loaded, an ENC_CHUNK or ENC_ALL ends. -/
theorem framed_encLoadStart_andThen (hW : W .freq) (s : State) :
    ((encLoadStart s).andThen afterLoad).Framed W s anyEnd noError :=
  (framed_encLoadStart hW s).andThen fun u hu hlen => by
    simpa [afterLoad, hlen] using show (Request.done u).Framed W s anyEnd noError from ⟨hu, trivial⟩

/-! ### The Bodies of the decoder -/

/-- The errors that each Body raises after its first stream operation or, for DEC_DECODE, in its first step (R300). -/
def Body.raises : Body → List ErrCode
  | .load => []
  | .dict => []
  | .pack => []
  | .count => [.truncated, .dictTooLarge]
  | .entries => [.truncated, .badCodeLen, .dupCodeword]
  | .lengths => [.truncated, .bitlenExceeds, .payloadTooLarge]
  | .payload => [.truncated]
  | .decode => [.unmatchedBits, .outputTooLarge]

/-- The errors of a Body, raised in the phase `p0` it began in. -/
def raisedBy (b : Body) (p0 p : Phase) (c : ErrCode) : Prop := p = p0 ∧ c ∈ b.raises

theorem framed_readCountStart (s : State) : (readCountStart s).Framed W s anyEnd noError :=
  show Frame W s _ from {}

theorem framed_readCountCheck (n : Word) (s : State) :
    (readCountCheck n s).Framed W s (fun u => u.chunkCount = s.chunkCount) (raisedBy .count s.phase) := by
  unfold readCountCheck
  dsimp only
  split
  · exact ⟨{}, rfl, rfl, by decide⟩
  · exact ⟨{ phase := nofun }, rfl⟩

theorem framed_readCountGot (got : List Byte) (b : Option Byte) (s : State) :
    (readCountGot got b s).Framed W s (fun u => u.chunkCount = s.chunkCount) (raisedBy .count s.phase) := by
  cases b with
  | none =>
    cases got with
    | nil => exact ⟨{ endFlag := fun _ => rfl }, rfl⟩
    | cons c got => exact ⟨Frame.refl s, rfl, rfl, by decide⟩
  | some b =>
    simp only [readCountGot]
    split
    · exact framed_readCountCheck _ s
    · exact Frame.refl s

theorem framed_entriesLoop (i : Nat) (s : State) :
    (entriesLoop i s).Framed W s (fun u => u.chunkCount = s.chunkCount) noError := by
  unfold entriesLoop
  split
  · exact Frame.refl s
  · exact ⟨{ phase := nofun }, rfl⟩

theorem framed_entryCheck (hW : W .dict) (i : Nat) (sym L : Byte) (v : Word) (s : State) :
    (entryCheck i sym L v s).Framed W s (fun u => u.chunkCount = s.chunkCount) (raisedBy .entries s.phase) := by
  unfold entryCheck
  split
  · exact ⟨Frame.refl s, rfl, rfl, by decide⟩
  split
  · exact ⟨Frame.refl s, rfl, rfl, by decide⟩
  · exact .after_noError (framed_entriesLoop (i + 1) _)
      { dictSym := absurd hW, dictLen := absurd hW, dictVal := absurd hW }

theorem framed_entryGot (hW : W .dict) (i : Nat) (got : List Byte) (b : Option Byte) (s : State) :
    (entryGot i got b s).Framed W s (fun u => u.chunkCount = s.chunkCount) (raisedBy .entries s.phase) := by
  cases b with
  | none => exact ⟨Frame.refl s, rfl, rfl, by decide⟩
  | some b =>
    simp only [entryGot]
    split
    · exact framed_entryCheck hW i _ _ _ s
    · exact Frame.refl s

theorem framed_readMetaStart (s : State) : (readMetaStart s).Framed W s anyEnd noError := Frame.refl s

theorem framed_bitLenGot (got : List Byte) (b : Option Byte) (s : State) :
    (bitLenGot got b s).Framed W s (fun u => u.chunkCount = s.chunkCount) (raisedBy .lengths s.phase) := by
  cases b with
  | none => exact ⟨Frame.refl s, rfl, rfl, by decide⟩
  | some b =>
    simp only [bitLenGot]
    split
    · exact show Frame W s _ from {}
    · exact Frame.refl s

theorem framed_metaCheck (s : State) :
    (metaCheck s).Framed W s (fun u => u.chunkCount = s.chunkCount) (raisedBy .lengths s.phase) := by
  unfold metaCheck
  split
  · exact ⟨Frame.refl s, rfl, rfl, by decide⟩
  split
  · exact ⟨Frame.refl s, rfl, rfl, by decide⟩
  · exact ⟨{ phase := nofun }, rfl⟩

theorem framed_byteLenGot (got : List Byte) (b : Option Byte) (s : State) :
    (byteLenGot got b s).Framed W s (fun u => u.chunkCount = s.chunkCount) (raisedBy .lengths s.phase) := by
  cases b with
  | none => exact ⟨Frame.refl s, rfl, rfl, by decide⟩
  | some b =>
    simp only [byteLenGot]
    split
    · exact .after (framed_metaCheck _) {} rfl
    · exact Frame.refl s

theorem framed_payloadLoop (t : Nat) (s : State) :
    (payloadLoop t s).Framed W s (fun u => u.chunkCount = s.chunkCount ∧ u.phase = .dDecode) noError := by
  unfold payloadLoop
  split
  · exact Frame.refl s
  · exact ⟨{ phase := nofun }, rfl, rfl⟩

theorem framed_payloadGot (hW : W .payload) (t : Nat) (b : Option Byte) (s : State) :
    (payloadGot t b s).Framed W s (fun u => u.chunkCount = s.chunkCount ∧ u.phase = .dDecode)
      (raisedBy .payload s.phase) := by
  cases b with
  | none => exact ⟨Frame.refl s, rfl, rfl, by decide⟩
  | some b =>
    simp only [payloadGot]
    cases h : memWrite .payload t b s with
    | error f => trivial
    | ok u =>
      obtain ⟨-, rfl⟩ := memWrite_ok.mp h
      exact .after_noError (framed_payloadLoop (t + 1) _) { payloadBuf := absurd hW }

theorem framed_decodeFinish (s : State) : (decodeFinish s).Framed W s anyEnd noError :=
  ⟨{ phase := nofun }, trivial⟩

theorem framed_decodeEmit (k : Nat) (s : State) : (decodeEmit k s).Framed W s anyEnd noError := by
  unfold decodeEmit
  split
  · trivial
  · exact .after (framed_emit .decoded _ (framed_decodeFinish _)) {} rfl

theorem framed_decodeLoop (hW : W .chunk) (todo j k : Nat) (s : State) :
    (decodeLoop todo j k s).Framed W s anyEnd (raisedBy .decode s.phase) := by
  induction todo generalizing j k s with
  | zero =>
    unfold decodeLoop
    split
    · exact ⟨Frame.refl s, rfl, rfl, by decide⟩
    · exact (framed_decodeEmit k s).of_noError fun _ => id
  | succ todo ih =>
    unfold decodeLoop
    split
    · trivial
    dsimp only
    split
    · exact ⟨{}, rfl, rfl, by decide⟩
    split
    · exact .after (ih (j + 1) k _) {} rfl
    split
    · exact ⟨{}, rfl, rfl, by decide⟩
    split
    · trivial
    · next _ _ _ _ t h =>
      obtain ⟨-, rfl⟩ := memWrite_ok.mp h
      exact .after (ih (j + 1) (k + 1) _) { chunkBuf := absurd hW } rfl

theorem framed_decodeStart (hW : W .chunk) (s : State) :
    (decodeStart s).Framed W s anyEnd (raisedBy .decode s.phase) := by
  unfold decodeStart
  exact .after (framed_decodeLoop hW _ 0 0 _) {} rfl

theorem framed_afterCount (s : State) : (afterCount s).Framed W s anyEnd noError := by
  unfold afterCount
  split
  · exact ⟨Frame.refl s, trivial⟩
  · exact (framed_entriesLoop 0 s).andThen fun u hu _ => (framed_readMetaStart u).after_noError hu

end

end Sys2Proof.Machine
end

/-! ## What one engine step of a command can do, with the frame of what it computes
(spec/40_control.md R150 to R153; spec/60_exceptions.md R310) -/

section
namespace Sys2Proof.Machine

/-! ### Which stores a command writes -/

/-- The stores that a Body writes after its first stream operation. -/
def Body.stores : Body → List Store
  | .load => [.freq, .chunk]
  | .dict => []
  | .pack => []
  | .count => []
  | .entries => [.dict]
  | .lengths => []
  | .payload => [.payload]
  | .decode => [.chunk]

/-- The stores that a command writes (R51, R52, R54, R80). -/
def storesOf : Instr → List Store
  | .nop => []
  | .clear => []
  | .encLoad => [.freq, .chunk]
  | .tbBuild => []
  | .ctGen => [.code]
  | .encEmitDict => []
  | .bpPack => []
  | .encChunk => [.freq, .chunk, .code]
  | .encAll => [.freq, .chunk, .code]
  | .decReadCount => []
  | .decReadEntries => [.dict]
  | .decReadMeta => []
  | .buReadPayload => [.payload]
  | .decDecode => [.chunk]
  | .decChunk => [.dict, .payload, .chunk]
  | .decAll => [.dict, .payload, .chunk]

/-- A command writes what its Bodies write. -/
theorem stores_subset_of_hasBody {i : Instr} {b : Body} (h : hasBody i b = true) : b.stores ⊆ storesOf i := by
  revert h
  cases i <;> cases b <;> decide

/-! ### The Bodies of a command -/

/-- The errors of the parts that a composite runs after the Body it is in (spec/41_encoder.md R180,
spec/44_decoder.md R258): CODE_TOO_LONG, and those of DEC_DECODE. -/
def raisedLater (p : Phase) (c : ErrCode) : Prop := (p = .eTree ∧ c = .codeTooLong) ∨ raisedBy .decode .dDecode p c

section
variable {W : Store → Prop}

theorem framed_afterPop (site : PopSite) (b : Option Byte) (s : State) (hW : ∀ x ∈ site.body.stores, W x) :
    (afterPop site b s).Framed W s
      (fun u => u.chunkCount = s.chunkCount ∧ (site.body = .payload → u.phase = .dDecode))
      (raisedBy site.body s.phase) := by
  cases site with
  | load cs k =>
    have hload : ∀ x ∈ Body.load.stores, W x := hW
    exact (framed_encLoadGot (hload _ (by decide)) (hload _ (by decide)) cs k b s).of_noError fun _ h => ⟨h, nofun⟩
  | count got => exact (framed_readCountGot got b s).mono (fun _ h => ⟨h, nofun⟩) fun _ _ => id
  | entry i got =>
    have hentries : ∀ x ∈ Body.entries.stores, W x := hW
    exact (framed_entryGot (hentries _ (by decide)) i got b s).mono (fun _ h => ⟨h, nofun⟩) fun _ _ => id
  | bitLen got => exact (framed_bitLenGot got b s).mono (fun _ h => ⟨h, nofun⟩) fun _ _ => id
  | byteLen got => exact (framed_byteLenGot got b s).mono (fun _ h => ⟨h, nofun⟩) fun _ _ => id
  | payload t =>
    have hpayload : ∀ x ∈ Body.payload.stores, W x := hW
    exact (framed_payloadGot (hpayload _ (by decide)) t b s).mono (fun _ h => ⟨h.1, fun _ => h.2⟩) fun _ _ => id

theorem framed_afterPush (site : PushSite) (rest : List Byte) (s : State) :
    (afterPush site rest s).Framed W s anyEnd noError := by
  cases site with
  | dict => exact framed_emit .dict rest (framed_emitDictFinish s)
  | pack => exact framed_emit .pack rest (framed_packFinish s)
  | decoded => exact framed_emit .decoded rest (framed_decodeFinish s)

/-- The Body a command begins with raises its errors in the phase the command may run in. -/
theorem framed_bodyOf {i : Instr} {s : State} (hi : i ≠ .clear) (hW : ∀ x ∈ storesOf i, W x)
    (hphase : allowedIn i s.phase = true) :
    (bodyOf i s).Framed W s anyEnd fun p c => p = s.phase ∧ raisedLater p c := by
  cases i with
  | clear => exact absurd rfl hi
  | nop => exact ⟨Frame.refl s, trivial⟩
  | encLoad => exact (framed_encLoadStart (hW _ (by decide)) s).of_noError fun _ _ => trivial
  | tbBuild => exact (framed_tbBuildBody s).of_noError fun _ _ => trivial
  | ctGen =>
    have hp : s.phase = .eTree := of_decide_eq_true hphase
    exact (framed_ctGenBody (hW _ (by decide)) s).mono (fun _ => id)
      fun p c h => ⟨h.1, .inl ⟨h.1.trans hp, h.2⟩⟩
  | encEmitDict => exact (framed_emitDictStart s).of_noError fun _ => id
  | bpPack => exact (framed_packStart s).of_noError fun _ => id
  | encChunk | encAll => exact (framed_encLoadStart_andThen (hW _ (by decide)) s).of_noError fun _ => id
  | decReadCount | decChunk | decAll => exact (framed_readCountStart s).of_noError fun _ => id
  | decReadEntries => exact (framed_entriesLoop 0 s).of_noError fun _ _ => trivial
  | decReadMeta => exact (framed_readMetaStart s).of_noError fun _ => id
  | buReadPayload => exact (framed_payloadLoop 0 s).of_noError fun _ _ => trivial
  | decDecode =>
    have hp : s.phase = .dDecode := of_decide_eq_true hphase
    exact (framed_decodeStart (hW _ (by decide)) s).mono (fun _ => id)
      fun p c h => ⟨h.1, .inr ⟨h.1.trans hp, h.2⟩⟩

theorem framed_decodeStart_later (hW : W .chunk) {s : State} (hphase : s.phase = .dDecode) :
    (decodeStart s).Framed W s anyEnd raisedLater :=
  (framed_decodeStart hW s).mono (fun _ => id) fun _ _ h => .inr ⟨h.1.trans hphase, h.2⟩

theorem framed_payloadStart_andThen (hW : W .chunk) (s : State) :
    ((payloadStart s).andThen decodeStart).Framed W s anyEnd raisedLater :=
  ((framed_payloadLoop 0 s).of_noError fun _ => id).andThen fun _ hu hend =>
    .after (framed_decodeStart_later hW hend.2) hu hend.1

/-- What follows a Body of a command, where DEC_DECODE is in its phase. -/
theorem framed_nextOf {i : Instr} {b : Body} {s : State} (hW : ∀ x ∈ storesOf i, W x)
    (hphase : b = .payload → s.phase = .dDecode) : (nextOf i b s).Framed W s anyEnd raisedLater := by
  have hdone : (Request.done s).Framed W s anyEnd raisedLater := ⟨Frame.refl s, trivial⟩
  cases i with
  | encChunk =>
    cases b with
    | load => exact (framed_afterLoad (hW _ (by decide)) s).mono (fun _ => id) fun _ _ => .inl
    | dict => exact (framed_packStart s).of_noError fun _ => id
    | pack | count | entries | lengths | payload | decode => exact hdone
  | encAll =>
    cases b with
    | load => exact (framed_afterLoad (hW _ (by decide)) s).mono (fun _ => id) fun _ _ => .inl
    | dict => exact (framed_packStart s).of_noError fun _ => id
    | pack => exact (framed_encLoadStart_andThen (hW _ (by decide)) s).of_noError fun _ => id
    | count | entries | lengths | payload | decode => exact hdone
  | decChunk =>
    cases b with
    | count => exact (framed_afterCount s).of_noError fun _ => id
    | entries => exact (framed_readMetaStart s).of_noError fun _ => id
    | lengths => exact framed_payloadStart_andThen (hW _ (by decide)) s
    | payload => exact framed_decodeStart_later (hW _ (by decide)) (hphase rfl)
    | load | dict | pack | decode => exact hdone
  | decAll =>
    cases b with
    | count => exact (framed_afterCount s).of_noError fun _ => id
    | entries => exact (framed_readMetaStart s).of_noError fun _ => id
    | lengths =>
      exact (framed_payloadStart_andThen (hW _ (by decide)) s).andThen fun u hu _ =>
        (framed_readCountStart u).after_noError hu
    | payload =>
      exact (framed_decodeStart_later (hW _ (by decide)) (hphase rfl)).andThen fun u hu _ =>
        (framed_readCountStart u).after_noError hu
    | decode => exact (framed_readCountStart s).of_noError fun _ => id
    | load | dict | pack => exact hdone
  | nop | clear | encLoad | tbBuild | ctGen | encEmitDict | bpPack | decReadCount | decReadEntries | decReadMeta
  | buReadPayload | decDecode => exact hdone

/-- After its last byte is pushed no command raises an error before its next InPop (R253 for the decoder). -/
theorem framed_nextOf_pushed {i : Instr} {site : PushSite} {s : State} (hW : ∀ x ∈ storesOf i, W x) :
    (nextOf i site.body s).Framed W s anyEnd noError := by
  have hdone : (Request.done s).Framed W s anyEnd noError := ⟨Frame.refl s, trivial⟩
  cases i with
  | encChunk =>
    cases site with
    | dict => exact framed_packStart s
    | pack | decoded => exact hdone
  | encAll =>
    cases site with
    | dict => exact framed_packStart s
    | pack => exact framed_encLoadStart_andThen (hW _ (by decide)) s
    | decoded => exact hdone
  | decAll =>
    cases site with
    | decoded => exact framed_readCountStart s
    | dict | pack => exact hdone
  | decChunk => cases site <;> exact hdone
  | nop | clear | encLoad | tbBuild | ctGen | encEmitDict | bpPack | decReadCount | decReadEntries | decReadMeta
  | buReadPayload | decDecode => exact hdone

theorem nextOf_of_not_composite {i : Instr} (h : isComposite i = false) : nextOf i = atEnd := by
  cases i with
  | encChunk | encAll | decChunk | decAll => cases h
  | nop | clear | encLoad | tbBuild | ctGen | encEmitDict | bpPack | decReadCount | decReadEntries | decReadMeta
  | buReadPayload | decDecode => rfl

/-! ### The computation of a command -/

/-- The errors that a step of command `i` from `s` may raise, each with the phase at that moment: SEQUENCE at the start,
those of the Body whose InPop has returned, and in a composite those of the parts it goes on with. -/
def raisedIn (i : Instr) (s : State) (p : Phase) (c : ErrCode) : Prop :=
  ((p = s.phase ∧ c = .sequence) ∨ (∃ site b, s.point = .popped site b ∧ raisedBy site.body s.phase p c) ∨
    raisedLater p c) ∧ (isComposite i = false → p = s.phase)

theorem framed_compute {i : Instr} {s : State} (hi : i ≠ .clear ∨ s.point ≠ .start)
    (hW : ∀ x ∈ storesOf i, W x) (hsite : ∀ site b, s.point = .popped site b → ∀ x ∈ site.body.stores, W x) :
    (compute i (bodyOf i) (nextOf i) s).Framed W s anyEnd (raisedIn i s) := by
  unfold compute
  split
  next hp =>
    split
    · next hphase =>
      exact (framed_bodyOf (hi.resolve_right (not_not_intro hp)) hW hphase).mono (fun _ => id)
        fun p c h => ⟨.inr (.inr h.2), fun _ => h.1⟩
    · exact ⟨Frame.refl s, rfl, .inl ⟨rfl, rfl⟩, fun _ => rfl⟩
  next site b hp =>
    have hpop := framed_afterPop site b s (hsite site b hp)
    rcases hcomp : isComposite i with _ | _
    · rw [nextOf_of_not_composite hcomp, andThen_atEnd]
      exact hpop.mono (fun _ _ => trivial) fun p c h => ⟨.inr (.inl ⟨site, b, hp, h⟩), fun _ => h.1⟩
    · refine (hpop.mono (fun _ => id) fun p c h => ⟨.inr (.inl ⟨site, b, hp, h⟩), by simp [hcomp]⟩).andThen
        fun u hu hend => ?_
      exact .after ((framed_nextOf hW hend.2).mono (fun _ => id) fun p c h => ⟨.inr (.inr h), by simp [hcomp]⟩)
        hu hend.1
  next site rest hp =>
    exact ((framed_afterPush site rest s).of_noError fun _ => id).andThen fun u hu _ =>
      (framed_nextOf_pushed hW).after_noError hu

/-- What the computation of a command leaves alone: its frame, and the ports. -/
structure Computed (W : Store → Prop) (s u : State) : Prop extends Frame W s u where
  inFifo   : u.inFifo = s.inFifo := by rfl
  inCount  : u.inCount = s.inCount := by rfl
  inClosed : u.inClosed = s.inClosed := by rfl
  outFifo  : u.outFifo = s.outFifo := by rfl
  outCount : u.outCount = s.outCount := by rfl
  irqEn    : u.irqEn = s.irqEn := by rfl
  cmdDrop  : u.cmdDrop = s.cmdDrop := by rfl
  inReset  : u.inReset = s.inReset := by rfl
  free     : u.free = s.free := by rfl
  host     : u.host = s.host := by rfl
  replies  : u.replies = s.replies := by rfl

theorem Computed.of_withPorts {s u : State} (hf : Frame W s u) (h : u.withPorts s = u) : Computed W s u := by
  rw [← h] at hf ⊢
  exact { toFrame := hf }

/-- What holds wherever the computation of command `i` from `s` arrives. -/
def computedPost (W : Store → Prop) (i : Instr) (s : State) : Post where
  pop u _ := Computed W s u
  push u _ := Computed W s u
  done u := Computed W s u
  error u c := Computed W s u ∧ u.chunkCount = s.chunkCount ∧ raisedIn i s u.phase c
  fault := True

theorem compute_computed {i : Instr} {s : State} (hi : i ≠ .clear ∨ s.point ≠ .start)
    (hW : ∀ x ∈ storesOf i, W x) (hsite : ∀ site b, s.point = .popped site b → ∀ x ∈ site.body.stores, W x) :
    (compute i (bodyOf i) (nextOf i) s).Meets (computedPost W i s) := by
  have hframe := framed_compute hi hW hsite
  have hports := compute_keeps_ports hi
  generalize compute i (bodyOf i) (nextOf i) s = r at hframe hports
  cases r with
  | pop u site => exact .of_withPorts hframe (Request.pop.inj hports).1
  | push u site b rest => exact .of_withPorts hframe (Request.push.inj hports).1
  | done u => exact .of_withPorts hframe.1 (Request.done.inj hports)
  | error u c => exact ⟨.of_withPorts hframe.1 (Request.error.inj hports).1, hframe.2⟩
  | fault f => trivial

end

/-! ### The step -/

/-- How an engine step that began in `s0` ends: `finishStep_next`, case by case. -/
inductive Ends (s0 : State) : Request → State → Prop
  | byte {s : State} {site : PopSite} {b : Byte} {rest : List Byte} (hf : s.inFifo = b :: rest) :
    Ends s0 (.pop s site)
      (({ s with inFifo := rest, inCount := s.inCount + 1 } : State).goto (.popped site (some b)))
  | eof {s : State} {site : PopSite} : Ends s0 (.pop s site) (s.goto (.popped site none))
  | popHold {s : State} {site : PopSite} : Ends s0 (.pop s site) s0
  | push {s : State} {site : PushSite} {b : Byte} {rest : List Byte} (hroom : s.outFifo.length < s.cfg.outDepth) :
    Ends s0 (.push s site b rest)
      (({ s with outFifo := s.outFifo ++ [b], outCount := s.outCount + 1 } : State).goto (.pushed site rest))
  | pushHold {s : State} {site : PushSite} {b : Byte} {rest : List Byte} : Ends s0 (.push s site b rest) s0
  | done {s : State} : Ends s0 (.done s) s.complete
  | error {s : State} {c : ErrCode} : Ends s0 (.error s c) (s.raiseError c)

theorem ends_of_finishStep {s0 t : State} {r : Request} (h : finishStep s0 r = .next t) : Ends s0 r t := by
  rcases finishStep_next h with ⟨s, site, rfl, ⟨b, rest, hf, rfl⟩ | ⟨-, -, rfl⟩ | ⟨-, -, rfl⟩⟩ |
    ⟨s, site, b, rest, rfl, ⟨hroom, rfl⟩ | ⟨-, rfl⟩⟩ | ⟨s, rfl, rfl⟩ | ⟨s, c, rfl, rfl⟩
  · exact .byte hf
  · exact .eof
  · exact .popHold
  · exact .push hroom
  · exact .pushHold
  · exact .done
  · exact .error

theorem exec_ends {i : Instr} {s t : State} (h : exec i s = .next t) :
    Ends (s.accept i) (compute i (bodyOf i) (nextOf i) (s.accept i)) t :=
  ends_of_finishStep ((exec_eq_engineStep i s).symm.trans h)

/-- Acceptance does not move the position. -/
@[simp] theorem State.accept_point (i : Instr) (s : State) : (s.accept i).point = s.point := by
  rcases h : s.run with _ | r <;> simp [State.point, h]

/-- A step of CLEAR from its start, in any phase (spec/40_control.md R156). -/
theorem exec_clear_start {s : State} (h : s.point = .start) :
    exec .clear s = finishStep (s.accept .clear) (clearBody (s.accept .clear)) := by
  rw [exec_eq_engineStep, engineStep, compute_clear ((State.accept_point _ _).trans h)]

end Sys2Proof.Machine
end

/-! ## Every step keeps the invariant (spec/10_state.md R33; spec/20_memory.md R80; spec/60_exceptions.md R312) -/

section
namespace Sys2Proof.Machine

/-! ### The stores keep to their sizes -/

/-- A read after a table write gives the written value or what was there. -/
theorem Table.entry_put_cases {n : Nat} (t : Table (BitVec n)) (i j : Nat) (v : BitVec n) :
    Table.entry (Table.put t i v) j = v ∨ Table.entry (Table.put t i v) j = Table.entry t j := by
  by_cases hj : j = i
  · subst hj
    by_cases hlt : j < 256
    · exact .inl (Table.entry_put_self t v hlt)
    · exact .inr (by simp [Table.entry, hlt])
  · exact .inr (Table.entry_put_of_ne t v hj)

/-- CODE_LEN holds lengths up to 32 where no leaf is deeper (spec/41_encoder.md R170). -/
theorem entry_codeLenOf_le {leaves : List (Byte × Bits)} (h : ∀ l ∈ leaves, l.2.length ≤ 32) (i : Nat) :
    (Table.entry (codeLenOf leaves) i).toNat ≤ 32 := by
  unfold codeLenOf
  refine List.foldlRecOn leaves _ (motive := fun t => (Table.entry t i).toNat ≤ 32) (by simp) fun t ht l hl => ?_
  rcases Table.entry_put_cases t l.1.toNat i (BitVec.ofNat 6 l.2.length) with he | he
  · rw [he, BitVec.toNat_ofNat]
    exact (Nat.mod_le _ _).trans (h l hl)
  · rwa [he]

/-- A value masked to its low `L` bits is below 2^L (spec/44_decoder.md R245). -/
theorem and_lowMask_lt (v : Word) (L : Nat) : (v &&& lowMask L).toNat < 2 ^ L := by
  have hpos : 0 < 2 ^ L := Nat.two_pow_pos L
  have hmask : (lowMask L).toNat ≤ 2 ^ L - 1 := by
    rw [lowMask, BitVec.toNat_ofNat]
    exact Nat.mod_le _ _
  have hand : (v &&& lowMask L).toNat ≤ (lowMask L).toNat := by
    rw [BitVec.toNat_and]
    exact Nat.and_le_right
  omega

theorem toNat_ofNat_le (n k : Nat) : (BitVec.ofNat n k).toNat ≤ k := by
  rw [BitVec.toNat_ofNat]
  exact Nat.mod_le _ _

theorem Memory.below_insert {m : Memory} {n i : Nat} {v : Byte} (h : Memory.below m n) (hi : i < n) :
    Memory.below (Memory.insert m i v) n := by
  intro c hc
  rcases Memory.index_of_mem_insert hc with rfl | hc
  · exact hi
  · exact h c hc

/-- A MemWrite keeps every store within its size. -/
theorem Sized.memWrite {b : Buf} {i : Nat} {v : Byte} {s t : State} (h : Sized s)
    (hw : memWrite b i v s = .ok t) : Sized t := by
  obtain ⟨hi, rfl⟩ := memWrite_ok.mp hw
  cases b with
  | chunk =>
    exact { h with chunkBuf := ⟨Memory.wf_insert h.chunkBuf.1 i v, Memory.below_insert h.chunkBuf.2 hi⟩ }
  | payload =>
    exact { h with payloadBuf := ⟨Memory.wf_insert h.payloadBuf.1 i v, Memory.below_insert h.payloadBuf.2 hi⟩ }

/-- A MemWrite fails only at an index the buffer does not have. -/
theorem memWrite_error {b : Buf} {i : Nat} {v : Byte} {s : State} {f : Fault} (h : memWrite b i v s = .error f) :
    ¬ i < bufSize s.cfg b := by
  intro hi
  rw [memWrite_ok.mpr ⟨hi, rfl⟩] at h
  cases h

/-- A dictionary entry with a legal length keeps every store within its size. -/
theorem Sized.writeEntry {i : Nat} {sym L : Byte} {v : Word} {s : State} (h : Sized s) (hL : L.toNat ≤ 32)
    (hi : i < 256) : Sized (writeEntry i sym L (v &&& lowMask L.toNat) s) := by
  have hlen : (L.setWidth 6).toNat = L.toNat := by
    rw [BitVec.toNat_setWidth]
    exact Nat.mod_eq_of_lt (by omega)
  refine { h with dictLen := fun j => ?_, dictVal := fun j => ?_ }
  · rw [writeEntry_dictLen]
    rcases Table.entry_put_cases s.dictLen i j (L.setWidth 6) with he | he <;> rw [he]
    · rwa [hlen]
    · exact h.dictLen j
  · rw [writeEntry_dictLen, writeEntry_dictVal]
    by_cases hj : j = i
    · subst hj
      rw [Table.entry_put_self _ _ hi, Table.entry_put_self _ _ hi, hlen]
      exact and_lowMask_lt v L.toNat
    · rw [Table.entry_put_of_ne _ _ hj, Table.entry_put_of_ne _ _ hj]
      exact h.dictVal j

/-! ### The invariant in a phase other than ERROR, without the running command -/

/-- The phases in which DICT_COUNT is at most 256 (spec/44_decoder.md R240). -/
def Phase.hasDict (p : Phase) : Bool := p = .dEntries || p = .dMeta || p = .dPayload || p = .dDecode

/-- The phases in which the payload fits its buffer (spec/44_decoder.md R246). -/
def Phase.hasPayload (p : Phase) : Bool := p = .dPayload || p = .dDecode

/-- What the invariant says in phase `p`, not ERROR, of everything but the running command. -/
structure Ready (p : Phase) (s : State) : Prop where
  sized   : Sized s
  phase   : s.phase = p
  errCode : s.errCode = 0#8
  dict    : p.hasDict = true → s.dictCount.toNat ≤ 256
  payload : p.hasPayload = true → s.bitLen.toNat ≤ 8 * s.byteLen.toNat ∧ s.byteLen.toNat ≤ s.cfg.payloadBytes
  tree    : p ≠ .eTree → s.tree = none ∧ s.queue = []
  cand    : p ≠ .dDecode → s.cand = none

theorem pointOk_of_inv {s : State} (h : Inv s) : PointOk s s.point := by
  unfold State.point
  split
  · next r hr => exact (h.controlled.run r hr).1
  · trivial

/-- Only DEC_DECODE has a candidate, and it runs in D_DECODE. -/
theorem cand_eq_none_of_inv {s : State} (h : Inv s) (hp : s.phase ≠ .dDecode) : s.cand = none := by
  by_contra hc
  obtain ⟨w, rest, hr⟩ := h.controlled.cand hc
  exact hp (h.controlled.run _ hr).1

theorem ready_of_inv {s : State} (h : Inv s) {p : Phase} (hp : s.phase = p) (he : p ≠ .error) : Ready p s where
  sized := h.sized
  phase := hp
  errCode := by
    by_contra hc
    exact he (hp.symm.trans (h.controlled.error.mpr hc))
  dict hd := h.controlled.dict (by simpa [hp, Phase.hasDict, or_assoc] using hd)
  payload hd := h.controlled.payload (by simpa [hp, Phase.hasPayload] using hd)
  tree ht := h.controlled.tree (hp ▸ ht)
  cand hc := cand_eq_none_of_inv h (hp ▸ hc)

/-- The control state in phase `p`, where what is said of the running command holds. -/
theorem Ready.inv {p : Phase} {s : State} (h : Ready p s) (he : p ≠ .error)
    (hcand : s.cand ≠ none → ∃ w rest, s.run = some { word := w, point := .pushed .decoded rest })
    (hrun : ∀ r, s.run = some r → RunOk s r) (hreset : s.inReset = true → s.run = none) : Inv s where
  sized := h.sized
  controlled := {
    error := by simp [h.phase, h.errCode, he]
    errorRun := fun hp => absurd (h.phase.symm.trans hp) he
    dict := fun hd => h.dict (by simpa [h.phase, Phase.hasDict, or_assoc] using hd)
    payload := fun hd => h.payload (by simpa [h.phase, Phase.hasPayload] using hd)
    tree := fun ht => h.tree (h.phase ▸ ht)
    cand := hcand
    run := hrun
    reset := hreset }

theorem Sized.complete {s : State} (h : Sized s) : Sized s.complete := { h with }

/-- Completion (spec/40_control.md R152). -/
theorem Ready.inv_complete {p : Phase} {s : State} (h : Ready p s) (he : p ≠ .error) (hcand : s.cand = none) :
    Inv s.complete :=
  Ready.inv (p := p) { h with sized := h.sized.complete } he (fun hc => absurd hcand hc) nofun fun _ => rfl

theorem ErrCode.code_ne_zero (c : ErrCode) : c.code ≠ 0#8 := by
  cases c <;> decide

/-- The error entry needs only that the stores keep to their sizes (spec/60_exceptions.md R310). -/
theorem Sized.inv_raiseError {s : State} (h : Sized s) (c : ErrCode) : Inv (s.raiseError c) where
  sized := { h with }
  controlled := {
    error := iff_of_true rfl c.code_ne_zero
    errorRun := fun _ => nofun
    dict := nofun
    payload := nofun
    tree := fun _ => ⟨rfl, rfl⟩
    cand := fun hc => absurd rfl hc
    run := nofun
    reset := fun _ => rfl }

end Sys2Proof.Machine
end

/-! ## Every Body keeps the invariant, and no Body makes a buffer access that cannot be made
(spec/20_memory.md R80; spec/41_encoder.md to spec/45_bitstream_unpacker.md) -/

section
namespace Sys2Proof.Machine

/-! ### What a computation keeps -/

/-- Wherever the computation arrives, it is in the phase of a Body of command `i` with its variables in their
bounds; an error leaves the stores within their sizes; and no buffer access fails. -/
def keptPost (i : Instr) (D : State → Prop) : Post where
  pop u site := hasBody i site.body = true ∧ Ready site.body.phase u ∧ PointOk u (.popped site none)
  push u site := hasBody i site.body = true ∧ Ready site.body.phase u
  done := D
  error u _ := Sized u
  fault := False

/-- What each Body leaves where it ends (R113, column "next phase"). -/
def bodyEnd : Body → State → Prop
  | .load, u => (Ready .idle u ∧ u.curLen = 0#32) ∨ Ready .eLoaded u
  | .dict, u => Ready .eDict u
  | .pack, u => Ready .idle u
  | .count, u => Ready .idle u ∨ Ready .dEntries u
  | .entries, u => Ready .dMeta u
  | .lengths, u => Ready .dPayload u
  | .payload, u => Ready .dDecode u ∧ u.cand = none
  | .decode, u => Ready .idle u

/-- A command may end where a Body ends. -/
theorem inv_complete_of_bodyEnd {b : Body} {u : State} (h : bodyEnd b u) : Inv u.complete := by
  cases b with
  | load =>
    rcases h with ⟨h, -⟩ | h <;> exact h.inv_complete nofun (h.cand nofun)
  | count => rcases h with h | h <;> exact h.inv_complete nofun (h.cand nofun)
  | payload => exact h.1.inv_complete nofun h.2
  | dict | pack | entries | lengths | decode => exact Ready.inv_complete h nofun (Ready.cand h nofun)

section
variable {i : Instr} {s : State} {D D' : State → Prop} {r : Request}

theorem kept_mono (h : r.Meets (keptPost i D)) (hD : ∀ u, D u → D' u) : r.Meets (keptPost i D') :=
  h.mono (fun _ _ => id) (fun _ _ => id) hD (fun _ _ => id) id

theorem kept_andThen {k : State → Request} (h : r.Meets (keptPost i D))
    (hk : ∀ u, D u → (k u).Meets (keptPost i D')) : (r.andThen k).Meets (keptPost i D') :=
  Request.Meets.andThen h hk

theorem kept_emit {fin : State → Request} (site : PushSite) (bs : List Byte) (hb : hasBody i site.body = true)
    (h : Ready site.body.phase s) (hfin : (fin s).Meets (keptPost i D)) :
    (emit site bs fin s).Meets (keptPost i D) := by
  cases bs with
  | nil => exact hfin
  | cons b rest => exact ⟨hb, h⟩

/-! ### The encoder -/

theorem kept_encLoadFinish (h : Ready .idle s) {k : Nat} (hk : k ≤ s.cfg.maxChunk) :
    (encLoadFinish k s).Meets (keptPost i (bodyEnd .load)) := by
  have hlen : (BitVec.ofNat 32 k).toNat ≤ s.cfg.maxChunk := (toNat_ofNat_le 32 k).trans hk
  unfold encLoadFinish
  dsimp only
  split
  · next h0 => exact .inl ⟨{ h with sized := { h.sized with curLen := hlen }, dict := nofun }, by rw [h0]⟩
  · exact .inr { h with
      sized := { h.sized with curLen := hlen }, phase := rfl, dict := nofun, payload := nofun
      tree := fun _ => h.tree nofun, cand := fun _ => h.cand nofun }

theorem kept_encLoadLoop (hb : hasBody i .load = true) (h : Ready .idle s) {cs k : Nat} (hk : k ≤ cs)
    (hcs : cs ≤ s.cfg.maxChunk) : (encLoadLoop cs k s).Meets (keptPost i (bodyEnd .load)) := by
  unfold encLoadLoop
  split
  · next hlt => exact ⟨hb, h, h.phase, hlt, hcs⟩
  · exact kept_encLoadFinish h (hk.trans hcs)

theorem kept_encLoadStart (hb : hasBody i .load = true) (h : Ready .idle s) :
    (encLoadStart s).Meets (keptPost i (bodyEnd .load)) := by
  unfold encLoadStart
  refine kept_encLoadLoop hb ?_ (Nat.zero_le _) h.sized.chunkSize.2
  exact { h with sized := { h.sized with }, payload := nofun }

theorem kept_encLoadGot (hb : hasBody i .load = true) (h : Ready .idle s) {cs k : Nat} (hk : k < cs)
    (hcs : cs ≤ s.cfg.maxChunk) (b : Option Byte) :
    (encLoadGot cs k b s).Meets (keptPost i (bodyEnd .load)) := by
  cases b with
  | none => exact kept_encLoadFinish h (hk.le.trans hcs)
  | some b =>
    simp only [encLoadGot]
    cases hw : memWrite .chunk k b s with
    | error f => exact absurd (hk.trans_le hcs) (memWrite_error hw)
    | ok t =>
      have ht : Sized t := h.sized.memWrite hw
      obtain ⟨-, rfl⟩ := memWrite_ok.mp hw
      refine kept_encLoadLoop hb ?_ hk hcs
      exact { h with sized := { ht with } }

theorem kept_tbBuildBody (h : Ready .eLoaded s) : (tbBuildBody s).Meets (keptPost i (Ready .eTree)) :=
  { h with
    sized := { h.sized with }, phase := rfl, dict := nofun, payload := nofun, tree := absurd rfl
    cand := fun _ => h.cand nofun }

theorem kept_ctGenBody (h : Ready .eTree s) : (ctGenBody s).Meets (keptPost i (Ready .eCodes)) := by
  unfold ctGenBody
  dsimp only
  split
  · exact { h.sized with }
  · next hshort =>
    have hle : ∀ l ∈ leavesOf s.tree, l.2.length ≤ 32 := by simpa using hshort
    exact { h with
      sized := { h.sized with codeLen := entry_codeLenOf_le hle }, phase := rfl, dict := nofun, payload := nofun
      tree := fun _ => ⟨rfl, rfl⟩, cand := fun _ => h.cand nofun }

theorem kept_emitDictFinish (h : Ready .eCodes s) : (emitDictFinish s).Meets (keptPost i (bodyEnd .dict)) :=
  show Ready .eDict _ from { h with
    sized := { h.sized with }, phase := rfl, dict := nofun, payload := nofun, tree := fun _ => h.tree nofun
    cand := fun _ => h.cand nofun }

/-- DICT_COUNT comes first, so an ENC_EMIT_DICT always pushes (spec/41_encoder.md R175). -/
theorem kept_emitDictStart (hb : hasBody i .dict = true) (h : Ready .eCodes s) :
    (emitDictStart s).Meets (keptPost i D) := ⟨hb, h⟩

theorem kept_packFinish (h : Ready .eDict s) : (packFinish s).Meets (keptPost i (bodyEnd .pack)) :=
  show Ready .idle _ from { h with
    sized := { h.sized with }, phase := rfl, dict := nofun, payload := nofun, tree := fun _ => h.tree nofun
    cand := fun _ => h.cand nofun }

/-- BIT_LEN comes first, so a BP_PACK always pushes (spec/43_bit_packer.md R220). -/
theorem kept_packStart (hb : hasBody i .pack = true) (h : Ready .eDict s) :
    (packStart s).Meets (keptPost i D) := by
  unfold packStart
  rw [memReadList_ok (by simpa [bufSize] using h.sized.curLen)]
  exact ⟨hb, h⟩

theorem kept_afterLoad (hb : hasBody i .dict = true) (h : bodyEnd .load s) :
    (afterLoad s).Meets (keptPost i (Inv ·.complete)) := by
  unfold afterLoad
  split
  · exact inv_complete_of_bodyEnd h
  · next hlen =>
    have hloaded : Ready .eLoaded s := h.resolve_left fun hend => hlen hend.2
    exact kept_andThen (kept_andThen (kept_tbBuildBody hloaded) fun _ hu => kept_ctGenBody hu)
      fun _ hu => kept_emitDictStart hb hu

/-! ### The decoder -/

theorem kept_readCountStart (hb : hasBody i .count = true) (h : Ready .idle s) :
    (readCountStart s).Meets (keptPost i D) :=
  ⟨hb, { h with sized := { h.sized with curLen := Nat.zero_le _ }, payload := nofun }, h.phase, by simp⟩

theorem kept_readCountCheck (h : Ready .idle s) (n : Word) :
    (readCountCheck n s).Meets (keptPost i (bodyEnd .count)) := by
  unfold readCountCheck
  dsimp only
  split
  · exact { h.sized with }
  · next hn => exact .inr { h with
      sized := { h.sized with }, phase := rfl, dict := fun _ => Nat.not_lt.mp hn, payload := nofun
      tree := fun _ => h.tree nofun, cand := fun _ => h.cand nofun }

/-- A 32-bit field that is not complete yet has at most three of its bytes. -/
theorem length_le_three {l : List Byte}
    (h : ∀ (b0 b1 b2 b3 : Byte) (rest : List Byte), l = b0 :: b1 :: b2 :: b3 :: rest → False) : l.length ≤ 3 := by
  rcases l with _ | ⟨b0, _ | ⟨b1, _ | ⟨b2, _ | ⟨b3, rest⟩⟩⟩⟩
  case cons.cons.cons.cons => exact (h b0 b1 b2 b3 rest rfl).elim
  all_goals simp

/-- A dictionary entry that is not complete yet has at most five of its bytes. -/
theorem length_le_five {l : List Byte}
    (h : ∀ (sym len b0 b1 b2 b3 : Byte) (rest : List Byte),
      l = sym :: len :: b0 :: b1 :: b2 :: b3 :: rest → False) : l.length ≤ 5 := by
  rcases l with _ | ⟨sym, _ | ⟨len, l⟩⟩
  case cons.cons =>
    have htail : l.length ≤ 3 := length_le_three fun b0 b1 b2 b3 rest hl => h sym len b0 b1 b2 b3 rest (by rw [hl])
    simp only [List.length_cons]
    omega
  all_goals simp

theorem kept_readCountGot (hb : hasBody i .count = true) (h : Ready .idle s) (got : List Byte)
    (b : Option Byte) : (readCountGot got b s).Meets (keptPost i (bodyEnd .count)) := by
  cases b with
  | none =>
    cases got with
    | nil => exact .inl { h with sized := { h.sized with } }
    | cons c got => exact h.sized
  | some b =>
    simp only [readCountGot]
    split
    · exact kept_readCountCheck h _
    · next hne => exact ⟨hb, h, h.phase, length_le_three hne⟩

theorem kept_entriesLoop (hb : hasBody i .entries = true) (h : Ready .dEntries s) (n : Nat) :
    (entriesLoop n s).Meets (keptPost i (bodyEnd .entries)) := by
  unfold entriesLoop
  split
  · next hn => exact ⟨hb, h, h.phase, hn, by simp⟩
  · exact show Ready .dMeta _ from { h with
      sized := { h.sized with }, phase := rfl, dict := fun _ => h.dict rfl, payload := nofun
      tree := fun _ => h.tree nofun, cand := fun _ => h.cand nofun }

theorem kept_entryCheck (hb : hasBody i .entries = true) (h : Ready .dEntries s) {n : Nat}
    (hn : n < s.dictCount.toNat) (sym L : Byte) (v : Word) :
    (entryCheck n sym L v s).Meets (keptPost i (bodyEnd .entries)) := by
  unfold entryCheck
  split
  · exact h.sized
  next hL =>
  split
  · exact h.sized
  · refine kept_entriesLoop hb ?_ (n + 1)
    exact { h with sized := h.sized.writeEntry (Nat.not_lt.mp hL) (hn.trans_le (h.dict rfl)) }

theorem kept_entryGot (hb : hasBody i .entries = true) (h : Ready .dEntries s) {n : Nat}
    (hn : n < s.dictCount.toNat) (got : List Byte) (b : Option Byte) :
    (entryGot n got b s).Meets (keptPost i (bodyEnd .entries)) := by
  cases b with
  | none => exact h.sized
  | some b =>
    simp only [entryGot]
    split
    · exact kept_entryCheck hb h hn _ _ _
    · next hne => exact ⟨hb, h, h.phase, hn, length_le_five hne⟩

theorem kept_readMetaStart (hb : hasBody i .lengths = true) (h : Ready .dMeta s) :
    (readMetaStart s).Meets (keptPost i D) := ⟨hb, h, h.phase, by simp⟩

theorem kept_bitLenGot (hb : hasBody i .lengths = true) (h : Ready .dMeta s) (got : List Byte)
    (b : Option Byte) : (bitLenGot got b s).Meets (keptPost i D) := by
  cases b with
  | none => exact h.sized
  | some b =>
    simp only [bitLenGot]
    split
    · exact ⟨hb, { h with sized := { h.sized with }, payload := nofun }, h.phase, by simp⟩
    · next hne => exact ⟨hb, h, h.phase, length_le_three hne⟩

theorem kept_metaCheck (h : Ready .dMeta s) : (metaCheck s).Meets (keptPost i (bodyEnd .lengths)) := by
  unfold metaCheck
  split
  · exact h.sized
  next hbits =>
  split
  · exact h.sized
  next hbytes =>
  exact show Ready .dPayload _ from { h with
    sized := { h.sized with }, phase := rfl, dict := fun _ => h.dict rfl
    payload := fun _ => ⟨Nat.not_lt.mp hbits, Nat.not_lt.mp hbytes⟩
    tree := fun _ => h.tree nofun, cand := fun _ => h.cand nofun }

theorem kept_byteLenGot (hb : hasBody i .lengths = true) (h : Ready .dMeta s) (got : List Byte)
    (b : Option Byte) : (byteLenGot got b s).Meets (keptPost i (bodyEnd .lengths)) := by
  cases b with
  | none => exact h.sized
  | some b =>
    simp only [byteLenGot]
    split
    · refine kept_metaCheck ?_
      exact { h with sized := { h.sized with }, payload := nofun }
    · next hne => exact ⟨hb, h, h.phase, length_le_three hne⟩

theorem kept_payloadLoop (hb : hasBody i .payload = true) (h : Ready .dPayload s) (t : Nat) :
    (payloadLoop t s).Meets (keptPost i (bodyEnd .payload)) := by
  unfold payloadLoop
  split
  · next ht => exact ⟨hb, h, h.phase, ht⟩
  · exact ⟨{ h with
      sized := { h.sized with }, phase := rfl, dict := fun _ => h.dict rfl, payload := fun _ => h.payload rfl
      tree := fun _ => h.tree nofun, cand := fun _ => h.cand nofun }, h.cand nofun⟩

/-- Byte `t` of the payload has its place: BYTE_LEN is within PAYLOAD_BUF (R246). -/
theorem kept_payloadGot (hb : hasBody i .payload = true) (h : Ready .dPayload s) {t : Nat}
    (ht : t < s.byteLen.toNat) (b : Option Byte) :
    (payloadGot t b s).Meets (keptPost i (bodyEnd .payload)) := by
  cases b with
  | none => exact h.sized
  | some b =>
    simp only [payloadGot]
    cases hw : memWrite .payload t b s with
    | error f => exact absurd (ht.trans_le (h.payload rfl).2) (memWrite_error hw)
    | ok u =>
      have hu : Sized u := h.sized.memWrite hw
      obtain ⟨-, rfl⟩ := memWrite_ok.mp hw
      exact kept_payloadLoop hb { h with sized := hu } (t + 1)

theorem kept_decodeFinish (h : Ready .dDecode s) : (decodeFinish s).Meets (keptPost i (bodyEnd .decode)) :=
  show Ready .idle _ from { h with
    sized := { h.sized with }, phase := rfl, dict := nofun, payload := nofun, tree := fun _ => h.tree nofun
    cand := fun _ => rfl }

theorem kept_decodeEmit (hb : hasBody i .decode = true) (h : Ready .dDecode s) {k : Nat}
    (hk : k ≤ s.cfg.maxChunk) : (decodeEmit k s).Meets (keptPost i (bodyEnd .decode)) := by
  unfold decodeEmit
  rw [memReadList_ok (by simpa [bufSize] using hk)]
  have hu : Ready .dDecode { s with curLen := BitVec.ofNat 32 k } :=
    { h with sized := { h.sized with curLen := (toNat_ofNat_le 32 k).trans hk } }
  exact kept_emit .decoded _ hb hu (kept_decodeFinish hu)

/-- Every bit of the payload can be read: BIT_LEN ≤ 8 × BYTE_LEN, and BYTE_LEN is within PAYLOAD_BUF (R246, R291). -/
theorem payloadBit_ne_error (h : Ready .dDecode s) {j : Nat} (hj : j < s.bitLen.toNat) (f : Fault) :
    payloadBit j s ≠ .error f := by
  obtain ⟨hbits, hbytes⟩ := h.payload rfl
  have hread : memRead .payload (j / 8) s = .ok (s.bufByte .payload (j / 8)) :=
    memRead_ok.mpr ⟨show j / 8 < s.cfg.payloadBytes by omega, rfl⟩
  simp [payloadBit, hread]

/-- R250's loop: `j` bits are decoded into `k` bytes, and `todo` bits are left. -/
theorem kept_decodeLoop (hb : hasBody i .decode = true) {todo j k : Nat} (h : Ready .dDecode s)
    (hj : j + todo = s.bitLen.toNat) (hk : k ≤ s.cfg.maxChunk) :
    (decodeLoop todo j k s).Meets (keptPost i (bodyEnd .decode)) := by
  induction todo generalizing j k s with
  | zero =>
    unfold decodeLoop
    split
    · exact h.sized
    · exact kept_decodeEmit hb h hk
  | succ todo ih =>
    unfold decodeLoop
    split
    · next f hf => exact payloadBit_ne_error h (by omega) f hf
    dsimp only
    split
    · exact { h.sized with }
    split
    · refine ih ?_ (by simp; omega) hk
      exact { h with sized := { h.sized with }, cand := absurd rfl }
    split
    · exact { h.sized with }
    next hfull =>
    have hlt : k < s.cfg.maxChunk := hk.lt_of_ne hfull
    split
    · next hw => exact memWrite_error hw hlt
    · next t hw =>
      have ht : Sized t := by
        refine Sized.memWrite ?_ hw
        exact { h.sized with }
      obtain ⟨-, rfl⟩ := memWrite_ok.mp hw
      refine ih ?_ (by simp; omega) hlt
      exact { h with sized := { ht with }, cand := absurd rfl }

theorem kept_decodeStart (hb : hasBody i .decode = true) (h : Ready .dDecode s) :
    (decodeStart s).Meets (keptPost i (bodyEnd .decode)) := by
  unfold decodeStart
  refine kept_decodeLoop hb ?_ (Nat.zero_add _) (Nat.zero_le _)
  exact { h with sized := { h.sized with }, cand := absurd rfl }

/-- After the count, PHASE = IDLE means the end of the container (spec/44_decoder.md R258). -/
theorem kept_afterCount (he : hasBody i .entries = true) (hl : hasBody i .lengths = true)
    (h : bodyEnd .count s) : (afterCount s).Meets (keptPost i (Inv ·.complete)) := by
  unfold afterCount
  split
  · exact inv_complete_of_bodyEnd h
  · next hidle =>
    have hentries : Ready .dEntries s := h.resolve_left fun hend => hidle hend.phase
    exact kept_andThen (kept_entriesLoop he hentries 0) fun _ hu => kept_readMetaStart hl hu

/-! ### The commands -/

theorem kept_afterPop {site : PopSite} {b : Option Byte} (hb : hasBody i site.body = true)
    (h : Ready site.body.phase s) (hp : PointOk s (.popped site b)) :
    (afterPop site b s).Meets (keptPost i (bodyEnd site.body)) := by
  cases site with
  | load cs k => exact kept_encLoadGot hb h hp.2.1 hp.2.2 b
  | count got => exact kept_readCountGot hb h got b
  | entry n got => exact kept_entryGot hb h hp.2.1 got b
  | bitLen got => exact kept_bitLenGot hb h got b
  | byteLen got => exact kept_byteLenGot hb h got b
  | payload t => exact kept_payloadGot hb h hp.2 b

theorem kept_afterPush {site : PushSite} (rest : List Byte) (hb : hasBody i site.body = true)
    (h : Ready site.body.phase s) : (afterPush site rest s).Meets (keptPost i (bodyEnd site.body)) := by
  cases site with
  | dict => exact kept_emit .dict rest hb h (kept_emitDictFinish h)
  | pack => exact kept_emit .pack rest hb h (kept_packFinish h)
  | decoded => exact kept_emit .decoded rest hb h (kept_decodeFinish h)

theorem kept_encLoadStart_andThen (hl : hasBody i .load = true) (hd : hasBody i .dict = true) (h : Ready .idle s) :
    ((encLoadStart s).andThen afterLoad).Meets (keptPost i (Inv ·.complete)) :=
  kept_andThen (kept_encLoadStart hl h) fun _ hu => kept_afterLoad hd hu

theorem kept_payloadStart_andThen (hp : hasBody i .payload = true) (hd : hasBody i .decode = true)
    (h : Ready .dPayload s) : ((payloadStart s).andThen decodeStart).Meets (keptPost i (bodyEnd .decode)) :=
  kept_andThen (kept_payloadLoop hp h 0) fun _ hu => kept_decodeStart hd hu.1

theorem kept_atBodyEnd {b : Body} (h : r.Meets (keptPost i (bodyEnd b))) :
    r.Meets (keptPost i (Inv ·.complete)) := kept_mono h fun _ => inv_complete_of_bodyEnd

/-- What follows a Body that the command has. -/
theorem kept_nextOf {b : Body} (hb : hasBody i b = true) (h : bodyEnd b s) :
    (nextOf i b s).Meets (keptPost i (Inv ·.complete)) := by
  have hdone : (Request.done s).Meets (keptPost i (Inv ·.complete)) := inv_complete_of_bodyEnd h
  cases i with
  | encChunk =>
    cases b with
    | load => exact kept_afterLoad rfl h
    | dict => exact kept_packStart rfl h
    | pack | count | entries | lengths | payload | decode => exact hdone
  | encAll =>
    cases b with
    | load => exact kept_afterLoad rfl h
    | dict => exact kept_packStart rfl h
    | pack => exact kept_encLoadStart_andThen rfl rfl h
    | count | entries | lengths | payload | decode => exact hdone
  | decChunk =>
    cases b with
    | count => exact kept_afterCount rfl rfl h
    | entries => exact kept_readMetaStart rfl h
    | lengths => exact kept_atBodyEnd (kept_payloadStart_andThen rfl rfl h)
    | payload => exact kept_atBodyEnd (kept_decodeStart rfl h.1)
    | load | dict | pack | decode => exact hdone
  | decAll =>
    cases b with
    | count => exact kept_afterCount rfl rfl h
    | entries => exact kept_readMetaStart rfl h
    | lengths => exact kept_andThen (kept_payloadStart_andThen rfl rfl h) fun _ hu => kept_readCountStart rfl hu
    | payload => exact kept_andThen (kept_decodeStart rfl h.1) fun _ hu => kept_readCountStart rfl hu
    | decode => exact kept_readCountStart rfl h
    | load | dict | pack => exact hdone
  | nop | clear | encLoad | tbBuild | ctGen | encEmitDict | bpPack | decReadCount | decReadEntries | decReadMeta
  | buReadPayload | decDecode => exact hdone

theorem kept_nopBody (h : Inv s) (hcand : s.cand = none) : (nopBody s).Meets (keptPost i (Inv ·.complete)) where
  sized := h.sized.complete
  controlled := { h.controlled with
    errorRun := fun _ => nofun, cand := absurd hcand, run := nofun, reset := fun _ => rfl }

theorem kept_clearBody (h : Inv s) (hcand : s.cand = none) :
    (clearBody s).Meets (keptPost i (Inv ·.complete)) :=
  Ready.inv_complete (p := .idle)
    { sized := { h.sized with inFifo := Nat.zero_le _, outFifo := Nat.zero_le _, curLen := Nat.zero_le _ }
      phase := rfl, errCode := rfl, dict := nofun, payload := nofun, tree := fun _ => ⟨rfl, rfl⟩
      cand := fun _ => hcand } nofun hcand

/-- The Body a command begins with, in a phase it may run in. -/
theorem kept_bodyOf (h : Inv s) (hcand : s.cand = none) (hphase : allowedIn i s.phase = true) :
    (bodyOf i s).Meets (keptPost i (Inv ·.complete)) := by
  have hready {p : Phase} (hp : decide (s.phase = p) = true) (he : p ≠ .error) : Ready p s :=
    ready_of_inv h (of_decide_eq_true hp) he
  cases i with
  | nop => exact kept_nopBody h hcand
  | clear => exact kept_clearBody h hcand
  | encLoad => exact kept_atBodyEnd (kept_encLoadStart rfl (hready hphase nofun))
  | tbBuild =>
    exact kept_mono (kept_tbBuildBody (hready hphase nofun)) fun _ hu => hu.inv_complete nofun (hu.cand nofun)
  | ctGen =>
    exact kept_mono (kept_ctGenBody (hready hphase nofun)) fun _ hu => hu.inv_complete nofun (hu.cand nofun)
  | encEmitDict => exact kept_emitDictStart rfl (hready hphase nofun)
  | bpPack => exact kept_packStart rfl (hready hphase nofun)
  | encChunk | encAll => exact kept_encLoadStart_andThen rfl rfl (hready hphase nofun)
  | decReadCount | decChunk | decAll => exact kept_readCountStart rfl (hready hphase nofun)
  | decReadEntries => exact kept_atBodyEnd (kept_entriesLoop rfl (hready hphase nofun) 0)
  | decReadMeta => exact kept_readMetaStart rfl (hready hphase nofun)
  | buReadPayload => exact kept_atBodyEnd (kept_payloadLoop rfl (hready hphase nofun) 0)
  | decDecode => exact kept_atBodyEnd (kept_decodeStart rfl (hready hphase nofun))

end

end Sys2Proof.Machine
end

/-! ### The engine's steps -/

section
namespace Sys2Proof.Machine

/-- The byte that InPop returned is no part of what holds at a position. -/
theorem pointOk_popped {s : State} {site : PopSite} {b b' : Option Byte} (h : PointOk s (.popped site b)) :
    PointOk s (.popped site b') := by
  cases site <;> exact h

/-- The phase of a running command is that of the Body it is in (R113). -/
theorem phase_eq_of_pointOk_popped {s : State} {site : PopSite} {b : Option Byte}
    (h : PointOk s (.popped site b)) : s.phase = site.body.phase := by
  cases site with
  | load | count | entry | bitLen | byteLen | payload => exact h.1

theorem pointOk_pushed_iff {s : State} {site : PushSite} {rest : List Byte} :
    PointOk s (.pushed site rest) ↔ s.phase = site.body.phase := by
  cases site <;> rfl

theorem Body.phase_ne_error (b : Body) : b.phase ≠ .error := by
  cases b <;> decide

/-- What the position says does not depend on the run itself. -/
theorem pointOk_goto {s : State} {q p : Point} (h : PointOk s p) : PointOk (s.goto q) p := by
  cases p with
  | start => trivial
  | popped site b => cases site <;> exact h
  | pushed site rest => cases site <;> exact h

theorem decode_encode (i : Instr) : decode (encode i) = .ok i := by
  cases i <;> rfl

theorem point_eq {s : State} {r : Run} (h : s.run = some r) : s.point = r.point := by
  simp [State.point, h]

/-- The running command's position is one of its own. -/
theorem hasPoint_of_inv {s : State} (h : Inv s) {r : Run} {i : Instr} (hr : s.run = some r)
    (hd : decode r.word = .ok i) : hasPoint i s.point = true := by
  have hrun := (h.controlled.run r hr).2
  rwa [hd, ← point_eq hr] at hrun

/-- Only at a position of DEC_DECODE is there a candidate. -/
theorem cand_eq_none_of_start {s : State} (h : Inv s) (hp : s.point = .start) : s.cand = none := by
  by_contra hc
  obtain ⟨w, rest, hr⟩ := h.controlled.cand hc
  rw [point_eq hr] at hp
  cases hp

/-- Wherever a command of the running word arrives, the invariant is ready to be kept. -/
theorem kept_compute {i : Instr} {s : State} {r : Run} (h : Inv s) (hr : s.run = some r)
    (hd : decode r.word = .ok i) :
    (compute i (bodyOf i) (nextOf i) s).Meets (keptPost i (Inv ·.complete)) := by
  have hhas := hasPoint_of_inv h hr hd
  have hok := pointOk_of_inv h
  unfold compute
  split
  next hp =>
    split
    · next hphase => exact kept_bodyOf h (cand_eq_none_of_start h hp) hphase
    · exact h.sized
  next site b hp =>
    rw [hp] at hhas hok
    have hready := ready_of_inv h (phase_eq_of_pointOk_popped hok) (Body.phase_ne_error _)
    exact kept_andThen (kept_afterPop hhas hready hok) fun _ hu => kept_nextOf hhas hu
  next site rest hp =>
    rw [hp] at hhas hok
    have hready := ready_of_inv h (pointOk_pushed_iff.mp hok) (Body.phase_ne_error _)
    exact kept_andThen (kept_afterPush rest hhas hready) fun _ hu => kept_nextOf hhas hu

/-- A command of the running word arrives at a position of its own. -/
theorem inv_goto {i : Instr} {b : Body} {u : State} {r : Run} {p : Point} (hu : Ready b.phase u)
    (hr : u.run = some r) (hd : decode r.word = .ok i) (hhas : hasPoint i p = true) (hok : PointOk u p)
    (hcand : b.phase = .dDecode → ∃ rest, p = .pushed .decoded rest) (hreset : u.inReset = false) :
    Inv (u.goto p) := by
  have hrun : (u.goto p).run = some { r with point := p } := by simp [hr]
  refine Ready.inv (p := b.phase) { hu with sized := { hu.sized with } } b.phase_ne_error (fun hc => ?_)
    (fun r' hr' => ?_) (fun hin => ?_)
  · obtain ⟨rest, rfl⟩ := hcand (by_contra fun hp => hc (hu.cand hp))
    exact ⟨r.word, rest, hrun⟩
  · obtain rfl := Option.some.inj (hrun.symm.trans hr')
    exact ⟨pointOk_goto hok, by simpa [hd] using hhas⟩
  · exact absurd (hreset.symm.trans hin) nofun

theorem PopSite.body_phase_ne (site : PopSite) : site.body.phase ≠ .dDecode := by
  cases site <;> exact nofun

theorem PushSite.eq_decoded {site : PushSite} (h : site.body.phase = .dDecode) : site = .decoded := by
  cases site with
  | decoded => rfl
  | dict | pack => cases h

/-- The word that is running stays, as does `rst_n`. -/
theorem compute_keeps_run {i : Instr} {s : State} :
    (compute i (bodyOf i) (nextOf i) s).Meets {
      pop := fun u _ => u.run = s.run ∧ u.inReset = s.inReset
      push := fun u _ => u.run = s.run ∧ u.inReset = s.inReset
      done := fun _ => True, error := fun _ _ => True, fault := True } := by
  by_cases hi : i ≠ .clear ∨ s.point ≠ .start
  · exact (compute_computed (W := fun _ => True) hi (fun _ _ => trivial) fun _ _ _ _ _ => trivial).mono
      (fun _ _ h => ⟨h.run, h.inReset⟩) (fun _ _ h => ⟨h.run, h.inReset⟩) (fun _ _ => trivial)
      (fun _ _ _ => trivial) fun _ => trivial
  · obtain ⟨rfl, hp⟩ : i = .clear ∧ s.point = .start := by simpa using hi
    rw [compute_clear hp]
    trivial

/-- One engine step of the running command keeps the invariant. -/
theorem exec_keeps_inv {i : Instr} {s t : State} {r : Run} (h : Inv s) (hr : s.run = some r)
    (hd : decode r.word = .ok i) (ht : exec i s = .next t) : Inv t := by
  have hreset : s.inReset = false := by
    by_contra hin
    rw [h.controlled.reset (by simpa using hin)] at hr
    cases hr
  have hends := exec_ends ht
  rw [accept_of_run hr] at hends
  have hkept := kept_compute h hr hd
  have hrun := compute_keeps_run (i := i) (s := s)
  generalize compute i (bodyOf i) (nextOf i) s = req at hends hkept hrun
  cases hends with
  | @byte u site b rest hf =>
    obtain ⟨hhas, hu, hok⟩ := hkept
    obtain ⟨hrun, hin⟩ := hrun
    refine inv_goto (r := r) (i := i) (b := site.body) ?_ (hrun.trans hr) hd hhas ?_
      (fun hp => absurd hp site.body_phase_ne) (hin.trans hreset)
    · have hlen := hu.sized.inFifo
      rw [hf] at hlen
      exact { hu with sized := { hu.sized with inFifo := Nat.le_of_succ_le hlen } }
    · cases site <;> exact hok
  | @eof u site =>
    obtain ⟨hhas, hu, hok⟩ := hkept
    obtain ⟨hrun, hin⟩ := hrun
    exact inv_goto hu (hrun.trans hr) hd hhas (pointOk_popped hok) (fun hp => absurd hp site.body_phase_ne)
      (hin.trans hreset)
  | @push u site b rest hroom =>
    obtain ⟨hhas, hu⟩ := hkept
    obtain ⟨hrun, hin⟩ := hrun
    refine inv_goto (r := r) (i := i) (b := site.body) ?_ (hrun.trans hr) hd hhas (pointOk_pushed_iff.mpr hu.phase)
      (fun hp => ⟨rest, by rw [PushSite.eq_decoded hp]⟩) (hin.trans hreset)
    exact { hu with sized := { hu.sized with outFifo := by simpa using hroom } }
  | popHold => exact h
  | pushHold => exact h
  | done => exact hkept
  | error => exact Sized.inv_raiseError hkept _

/-- The engine's turn keeps the invariant. -/
theorem engineTurn_keeps_inv {s t : State} (h : Inv s) (ht : engineTurn s = .next t) : Inv t := by
  unfold engineTurn at ht
  split at ht
  · cases ht; exact h
  split at ht
  · cases ht; exact h
  · next i hf =>
    obtain ⟨r, hr, hd⟩ := Option.map_eq_some_iff.mp hf
    exact exec_keeps_inv h hr hd ht
  · cases ht; exact h.sized.inv_raiseError _

/-! ### The host's moves -/

/-- Of what only the host's side of the block uses, but for the input FIFO, the invariant says nothing. -/
theorem Inv.hostSide {s : State} (h : Inv s) {irqEn irqStatus : BitVec 2} {inClosed cmdDrop : Bool} {free : Nat}
    {host : List Move} {replies : List Reply} :
    Inv { s with
      irqEn := irqEn, irqStatus := irqStatus, inClosed := inClosed, cmdDrop := cmdDrop, free := free, host := host
      replies := replies } where
  sized := { h.sized with }
  controlled := { h.controlled with run := fun r hr => h.controlled.run r hr }

/-- All that a CSR write can do (R37 to R41, R55). -/
theorem writeCsr_cases (a : Addr) (v : Word) (s : State) :
    writeCsr a v s = s ∨ (s.inReset = false ∧
      ((csrAt a = .cmd ∧ writeCsr a v s = writeCmd v s) ∨
       (csrAt a = .ctrl ∧ writeCsr a v s = writeCtrl v s) ∨
       (csrAt a = .chunkSize ∧ writeCsr a v s = writeChunkSize v s) ∨
       (csrAt a = .irqEn ∧ writeCsr a v s = { s with irqEn := v.setWidth 2 }) ∨
       (csrAt a = .irqStatus ∧ writeCsr a v s = { s with irqStatus := ackIrq s.irqStatus v }))) := by
  rcases hr : s.inReset with _ | _
  · cases ha : csrAt a with
    | cmd | ctrl | chunkSize | irqEn | irqStatus => exact .inr ⟨rfl, by simp [writeCsr, hr, ha]⟩
    | id | status | errCode | errInfo | chunkCount | inCount | outCount | curLen | dictCount | bitLen | byteLen
    | maxChunk | freq | codeVal | codeLen | dictSymLen | dictVal | unmapped =>
      exact .inl (by simp [writeCsr, hr, ha])
  · exact .inl (writeCsr_inReset hr)

/-- An idle block has no candidate: only a running DEC_DECODE has one (R59). -/
theorem cand_eq_none_of_idle {s : State} (h : Inv s) (hb : s.busy = false) : s.cand = none := by
  by_contra hc
  obtain ⟨w, rest, hr⟩ := h.controlled.cand hc
  simp [State.busy, hr] at hb

/-- A command word is accepted on an idle block, and in PHASE = ERROR only NOP and CLEAR are (R150). -/
theorem writeCmd_keeps_inv {s : State} (h : Inv s) (hreset : s.inReset = false) (w : Word) :
    Inv (writeCmd w s) := by
  unfold writeCmd
  split
  · exact h.hostSide
  next hbusy =>
  split
  · exact h.hostSide
  next herr =>
  have hcand : s.cand = none := cand_eq_none_of_idle h (by simpa using hbusy)
  refine ⟨{ h.sized with }, { h.controlled with
    errorRun := fun hp r hr => ?_
    cand := absurd hcand
    run := fun r hr => ?_
    reset := fun hin => absurd (hreset.symm.trans hin) nofun }⟩
  · cases hr
    refine ⟨?_, rfl⟩
    by_contra hw
    exact herr ⟨hp, fun h0 => hw (.inl h0), fun h1 => hw (.inr h1)⟩
  · cases hr
    refine ⟨trivial, ?_⟩
    dsimp only
    split <;> rfl

theorem writeCtrl_keeps_inv {s : State} (h : Inv s) (v : Word) : Inv (writeCtrl v s) := by
  unfold writeCtrl
  split
  · exact h.hostSide
  · exact h

theorem writeChunkSize_keeps_inv {s : State} (h : Inv s) (v : Word) : Inv (writeChunkSize v s) := by
  unfold writeChunkSize
  split
  · exact h
  split
  · next hv =>
    exact ⟨{ h.sized with chunkSize := hv }, { h.controlled with run := fun r hr => h.controlled.run r hr }⟩
  · exact h

theorem writeCsr_keeps_inv {s : State} (h : Inv s) (a : Addr) (v : Word) : Inv (writeCsr a v s) := by
  rcases writeCsr_cases a v s with he | ⟨hr, ⟨-, he⟩ | ⟨-, he⟩ | ⟨-, he⟩ | ⟨-, he⟩ | ⟨-, he⟩⟩ <;> rw [he]
  · exact h
  · exact writeCmd_keeps_inv h hr v
  · exact writeCtrl_keeps_inv h v
  · exact writeChunkSize_keeps_inv h v
  · exact h.hostSide
  · exact h.hostSide

theorem readReply_keeps_inv {s : State} (h : Inv s) (a : Addr) : Inv (readReply a s) := by
  unfold readReply
  rcases readCsr_state a s with he | he <;> rw [he]
  · exact h.hostSide
  · exact h.hostSide

/-- An `s_in` transfer completes only where the FIFO has room (spec/20_memory.md R87). -/
theorem sendByte_keeps_inv {s : State} (h : Inv s) (hready : sendReady s = true) (b : Byte) (last : Bool) :
    Inv (sendByte b last s) := by
  have hroom : s.inFifo.length < s.cfg.inDepth := by
    simp only [sendReady, Bool.and_eq_true, decide_eq_true_eq] at hready
    exact hready.1
  exact ⟨{ h.sized with inFifo := by simpa [sendByte] using hroom },
    { h.controlled with run := fun r hr => h.controlled.run r hr }⟩

theorem recvByte_keeps_inv {s : State} (h : Inv s) : Inv (recvByte s) := by
  unfold recvByte
  split
  · next b rest hf =>
    have hlen := h.sized.outFifo
    rw [hf] at hlen
    exact ⟨{ h.sized with outFifo := Nat.le_of_succ_le hlen },
      { h.controlled with run := fun r hr => h.controlled.run r hr }⟩
  · exact h

/-- Reset, whatever the block was doing (spec/70_reset_and_hazards.md R350). -/
theorem resetBlock_inv {s : State} (h : Inv s) (inReset : Bool) : Inv { s.resetBlock with inReset := inReset } :=
  ⟨{ sized_resetOf h.sized.cfg with }, { controlled_resetOf s.cfg with run := nofun, reset := fun _ => rfl }⟩

/-- Every move of the host that can be made keeps the invariant. -/
theorem act_keeps_inv {s : State} (h : Inv s) {m : Move} (hready : m.ready s = true) : Inv (m.act s) := by
  cases m with
  | csrRead a => exact readReply_keeps_inv h a
  | csrWrite a v => exact writeCsr_keeps_inv h a v
  | send b last =>
    simp only [Move.act]
    split
    · exact h
    · next hr => exact sendByte_keeps_inv h (by simpa [Move.ready, hr] using hready) b last
  | recv => exact recvByte_keeps_inv h
  | waitIdle => exact readReply_keeps_inv h _
  | waitIrq | engine => exact h
  | ackSameStep v => exact writeCsr_keeps_inv h 0x0018#16 v
  | rstAssert => exact resetBlock_inv h true
  | rstRelease => exact resetBlock_inv h false

/-- Whether a move can be made does not depend on the moves after it. -/
theorem ready_withHost (m : Move) (s : State) (moves : List Move) :
    m.ready { s with host := moves } = m.ready s := by
  cases m <;> rfl

/-- Settles O58. A step is the engine's turn, or a host move, or a host move and then the engine's turn. -/
theorem stepKeepsTheInvariant : Obligations.StepKeepsTheInvariant := by
  intro s t h ht
  rcases step_cases s with ⟨-, he⟩ | ⟨m, rest, -, ⟨hready, -, he⟩ | ⟨hready, -, he⟩ | ⟨-, he⟩⟩ <;> rw [he] at ht
  · exact engineTurn_keeps_inv h ht
  · cases ht
    exact act_keeps_inv h.hostSide ((ready_withHost m s rest).trans hready)
  · exact engineTurn_keeps_inv (act_keeps_inv h.hostSide ((ready_withHost m s rest).trans hready)) ht
  · exact engineTurn_keeps_inv h ht

end Sys2Proof.Machine
end

/-! ## What one engine step of a command leaves unchanged
(spec/10_state.md R33, R35, R41, R45, R51 to R54; spec/60_exceptions.md R310, R311) -/

section
namespace Sys2Proof.Machine

/-! ### All that an engine step can do -/

/-- How a step of command `i` from `s` ends, where its computation has arrived in the state `u`. -/
inductive StepEnds (i : Instr) (s u : State) : State → Prop
  | byte {site : PopSite} {b : Byte} {rest : List Byte} (hf : u.inFifo = b :: rest) :
    StepEnds i s u
      (({ u with inFifo := rest, inCount := u.inCount + 1 } : State).goto (.popped site (some b)))
  | eof {site : PopSite} : StepEnds i s u (u.goto (.popped site none))
  | push {site : PushSite} {b : Byte} {rest : List Byte} (hroom : u.outFifo.length < u.cfg.outDepth) :
    StepEnds i s u
      (({ u with outFifo := u.outFifo ++ [b], outCount := u.outCount + 1 } : State).goto (.pushed site rest))
  | done : StepEnds i s u u.complete
  | error {c : ErrCode} (hcount : u.chunkCount = s.chunkCount) (hraised : raisedIn i s u.phase c) :
    StepEnds i s u (u.raiseError c)

theorem accept_eq (i : Instr) (s : State) :
    s.accept i = { s with run := some (s.run.getD { word := encode i, point := .start }) } := by
  cases h : s.run with
  | none => rw [accept_of_idle h]; rfl
  | some r => rw [accept_of_run h, Option.getD_some, ← h]

theorem raisedIn_accept {i : Instr} {s : State} {p : Phase} {c : ErrCode} (h : raisedIn i (s.accept i) p c) :
    raisedIn i s p c := by
  simpa [raisedIn] using h

/-- A step of a command that is no CLEAR at its start holds, with the command accepted, or it ends in one of five
ways after a computation with a known frame. -/
theorem exec_cases {W : Store → Prop} {i : Instr} {s t : State} (hi : i ≠ .clear ∨ s.point ≠ .start)
    (hW : ∀ x ∈ storesOf i, W x) (hsite : ∀ site b, s.point = .popped site b → ∀ x ∈ site.body.stores, W x)
    (h : exec i s = .next t) :
    ∃ r, s.accept i = { s with run := some r } ∧
      (t = { s with run := some r } ∨ ∃ u, Computed W { s with run := some r } u ∧ StepEnds i s u t) := by
  refine ⟨_, accept_eq i s, ?_⟩
  rw [← accept_eq]
  have hends := exec_ends h
  have hcomp := compute_computed (W := W) (i := i) (s := s.accept i) (by simpa using hi) hW (by simpa using hsite)
  generalize compute i (bodyOf i) (nextOf i) (s.accept i) = req at hends hcomp
  cases hends with
  | byte hf => exact .inr ⟨_, hcomp, .byte hf⟩
  | eof => exact .inr ⟨_, hcomp, .eof⟩
  | push hroom => exact .inr ⟨_, hcomp, .push hroom⟩
  | popHold => exact .inl rfl
  | pushHold => exact .inl rfl
  | done => exact .inr ⟨_, hcomp, .done⟩
  | error =>
    obtain ⟨hu, hcount, hraised⟩ := hcomp
    exact .inr ⟨_, hu, .error (hcount.trans (State.accept_chunkCount i s)) (raisedIn_accept hraised)⟩

/-- `exec_cases` where it does not matter which stores are written. -/
theorem exec_cases_anyStore {i : Instr} {s t : State} (hi : i ≠ .clear ∨ s.point ≠ .start)
    (h : exec i s = .next t) :
    ∃ r, s.accept i = { s with run := some r } ∧ (t = { s with run := some r } ∨
      ∃ u, Computed (fun _ => True) { s with run := some r } u ∧ StepEnds i s u t) :=
  exec_cases hi (fun _ _ => trivial) (fun _ _ _ _ _ => trivial) h

/-- The state that a CLEAR leaves, in any phase (spec/40_control.md R156). -/
theorem exec_clear_next {s t : State} (hp : s.point = .start) (h : exec .clear s = .next t) :
    t = { s with
      phase := .idle, errCode := 0#8, errInfo := 0#12, endFlag := false, cmdDrop := false, inClosed := false
      inFifo := [], outFifo := [], chunkCount := 0#32, inCount := 0#32, outCount := 0#32
      curLen := 0#32, dictCount := 0#32, bitLen := 0#32, byteLen := 0#32
      tree := none, queue := [], run := none, irqStatus := setDone (clearErr s.irqStatus) } := by
  rw [exec_clear_start hp, accept_eq] at h
  exact (Host.Outcome.next.inj h).symm

/-- A step of CLEAR is at its start, or it is like those of the other commands. -/
theorem clear_start_or (i : Instr) (s : State) :
    (i = .clear ∧ s.point = .start) ∨ (i ≠ .clear ∨ s.point ≠ .start) := by
  by_cases hi : i = .clear <;> simp [hi, em]

/-! ### The registers of the host -/

/-- Settles O53. A computation keeps these fields, and so does each way to end a step. -/
theorem commandsLeaveTheHostsRegisters : Obligations.CommandsLeaveTheHostsRegisters := by
  intro i s t h
  rcases clear_start_or i s with ⟨rfl, hp⟩ | hi
  · obtain rfl := exec_clear_next hp h
    exact ⟨rfl, rfl, rfl, rfl, rfl, rfl, rfl, rfl, fun hne => absurd rfl hne⟩
  obtain ⟨r, -, rfl | ⟨u, hu, hend⟩⟩ := exec_cases_anyStore hi h
  · exact ⟨rfl, rfl, rfl, rfl, rfl, rfl, rfl, rfl, fun _ => ⟨rfl, rfl⟩⟩
  cases hend with
  | byte | eof | push | done | error =>
    exact ⟨hu.cfg, hu.chunkSize, hu.irqEn, hu.inReset, hu.epoch, hu.free, hu.host, hu.replies,
      fun _ => ⟨hu.cmdDrop, hu.inClosed⟩⟩

/-! ### The tables and the buffers -/

/-- The commands that write each store (R51, R52, R54, R80). -/
def writersOf : Store → List Instr
  | .freq => [.encLoad, .encChunk, .encAll]
  | .code => [.ctGen, .encChunk, .encAll]
  | .dict => [.decReadEntries, .decChunk, .decAll]
  | .chunk => [.encLoad, .encChunk, .encAll, .decDecode, .decChunk, .decAll]
  | .payload => [.buReadPayload, .decChunk, .decAll]

theorem mem_writersOf {i : Instr} {x : Store} (h : x ∈ storesOf i) : i ∈ writersOf x := by
  revert h
  cases i <;> cases x <;> decide

/-- Settles O54. A command at a position of its own writes only its own stores. -/
theorem tablesAreWrittenOnlyBy : Obligations.TablesAreWrittenOnlyBy := by
  intro i s t hpoint h
  rcases clear_start_or i s with ⟨rfl, hp⟩ | hi
  · obtain rfl := exec_clear_next hp h
    exact ⟨fun _ _ _ => rfl, fun _ _ _ => ⟨rfl, rfl⟩, fun _ _ _ => ⟨rfl, rfl, rfl⟩, fun _ _ _ _ _ _ => rfl,
      fun _ _ _ => rfl⟩
  have hsite : ∀ site b, s.point = .popped site b → ∀ x ∈ site.body.stores, x ∈ storesOf i := by
    intro site b hp x hx
    rw [hp] at hpoint
    exact stores_subset_of_hasBody hpoint hx
  obtain ⟨r, -, rfl | ⟨u, hu, hend⟩⟩ := exec_cases (W := (· ∈ storesOf i)) hi (fun _ => id) hsite h
  · exact ⟨fun _ _ _ => rfl, fun _ _ _ => ⟨rfl, rfl⟩, fun _ _ _ => ⟨rfl, rfl, rfl⟩, fun _ _ _ _ _ _ => rfl,
      fun _ _ _ => rfl⟩
  have hfreq (h1 : i ≠ .encLoad) (h2 : i ≠ .encChunk) (h3 : i ≠ .encAll) : Store.freq ∉ storesOf i :=
    fun hx => by simpa [writersOf, h1, h2, h3] using mem_writersOf hx
  have hcode (h1 : i ≠ .ctGen) (h2 : i ≠ .encChunk) (h3 : i ≠ .encAll) : Store.code ∉ storesOf i :=
    fun hx => by simpa [writersOf, h1, h2, h3] using mem_writersOf hx
  have hdict (h1 : i ≠ .decReadEntries) (h2 : i ≠ .decChunk) (h3 : i ≠ .decAll) : Store.dict ∉ storesOf i :=
    fun hx => by simpa [writersOf, h1, h2, h3] using mem_writersOf hx
  have hchunk (h1 : i ≠ .encLoad) (h2 : i ≠ .encChunk) (h3 : i ≠ .encAll) (h4 : i ≠ .decDecode)
      (h5 : i ≠ .decChunk) (h6 : i ≠ .decAll) : Store.chunk ∉ storesOf i :=
    fun hx => by simpa [writersOf, h1, h2, h3, h4, h5, h6] using mem_writersOf hx
  have hpayload (h1 : i ≠ .buReadPayload) (h2 : i ≠ .decChunk) (h3 : i ≠ .decAll) : Store.payload ∉ storesOf i :=
    fun hx => by simpa [writersOf, h1, h2, h3] using mem_writersOf hx
  cases hend with
  | byte | eof | push | done | error =>
    exact ⟨fun h1 h2 h3 => hu.freq (hfreq h1 h2 h3),
      fun h1 h2 h3 => ⟨hu.codeLen (hcode h1 h2 h3), hu.codeVal (hcode h1 h2 h3)⟩,
      fun h1 h2 h3 => ⟨hu.dictSym (hdict h1 h2 h3), hu.dictLen (hdict h1 h2 h3), hu.dictVal (hdict h1 h2 h3)⟩,
      fun h1 h2 h3 h4 h5 h6 => hu.chunkBuf (hchunk h1 h2 h3 h4 h5 h6),
      fun h1 h2 h3 => hu.payloadBuf (hpayload h1 h2 h3)⟩

/-! ### The streams -/

/-- Settles O18. Only an InPop's byte and an OutPush move a byte, one each (R84, R85). -/
theorem engineStepMovesAtMostOneByte : Obligations.EngineStepMovesAtMostOneByte := by
  intro i s t hi h
  obtain ⟨r, -, rfl | ⟨u, hu, hend⟩⟩ := exec_cases_anyStore (.inl hi) h
  · exact .inl ⟨rfl, rfl, rfl, rfl⟩
  have hstill : u.inFifo = s.inFifo ∧ u.inCount = s.inCount ∧ u.outFifo = s.outFifo ∧ u.outCount = s.outCount :=
    ⟨hu.inFifo, hu.inCount, hu.outFifo, hu.outCount⟩
  cases hend with
  | @byte site b rest hf =>
    exact .inr (.inl ⟨b, hu.inFifo.symm.trans hf, congrArg (· + 1) hu.inCount, hu.outFifo, hu.outCount⟩)
  | @push site b rest hroom =>
    refine .inr (.inr ⟨b, congrArg (· ++ [b]) hu.outFifo, congrArg (· + 1) hu.outCount, ?_, hu.inFifo, hu.inCount⟩)
    rwa [hu.outFifo, hu.cfg] at hroom
  | eof | done | error => exact .inl hstill

/-! ### Errors -/

/-- The errors of a Body are raised in its phase, which for each of them is the one of the part that fails. -/
theorem failingPhase_of_mem_raises {s : State} {site : PopSite} {b : Option Byte} {c : ErrCode}
    (hp : s.point = .popped site b) (hc : c ∈ site.body.raises) : failingPhase c s = site.body.phase := by
  have htruncated : failingPhase .truncated s = site.body.phase := by simp [failingPhase, hp]
  cases site with
  | load cs k => cases hc
  | count got =>
    obtain rfl | rfl : c = .truncated ∨ c = .dictTooLarge := by simpa [PopSite.body, Body.raises] using hc
    · exact htruncated
    · rfl
  | entry n got =>
    obtain rfl | rfl | rfl : c = .truncated ∨ c = .badCodeLen ∨ c = .dupCodeword := by
      simpa [PopSite.body, Body.raises] using hc
    · exact htruncated
    · rfl
    · rfl
  | bitLen got | byteLen got =>
    obtain rfl | rfl | rfl : c = .truncated ∨ c = .bitlenExceeds ∨ c = .payloadTooLarge := by
      simpa [PopSite.body, Body.raises] using hc
    · exact htruncated
    · rfl
    · rfl
  | payload t =>
    obtain rfl : c = .truncated := by simpa [PopSite.body, Body.raises] using hc
    exact htruncated

/-- In a state that has the invariant, an error's phase is the one of the part that fails (R310). -/
theorem failingPhase_of_raisedIn {i : Instr} {s : State} {p : Phase} {c : ErrCode} (h : Inv s)
    (hr : raisedIn i s p c) : failingPhase c s = p := by
  rcases hr.1 with ⟨rfl, rfl⟩ | ⟨site, b, hp, rfl, hc⟩ | ⟨rfl, rfl⟩ | ⟨rfl, hc⟩
  · rfl
  · have hok := pointOk_of_inv h
    rw [hp] at hok
    rw [failingPhase_of_mem_raises hp hc, phase_eq_of_pointOk_popped hok]
  · rfl
  · obtain rfl | rfl : c = .unmatchedBits ∨ c = .outputTooLarge := by simpa [Body.raises] using hc
    · rfl
    · rfl

theorem phase_ne_error_of_raisedIn {i : Instr} {s : State} {p : Phase} {c : ErrCode} (h : s.phase ≠ .error)
    (hr : raisedIn i s p c) : p ≠ .error := by
  rcases hr.1 with ⟨rfl, -⟩ | ⟨_, _, _, rfl, -⟩ | ⟨rfl, -⟩ | ⟨rfl, -⟩
  · exact h
  · exact h
  · exact nofun
  · exact nofun

/-- A step that enters ERROR is an error entry (R310). -/
theorem exec_enters_error {i : Instr} {s t : State} (h : exec i s = .next t) (hs : s.phase ≠ .error)
    (ht : t.phase = .error) :
    ∃ r u c, s.accept i = { s with run := some r } ∧ Computed (fun _ => True) { s with run := some r } u ∧
      u.chunkCount = s.chunkCount ∧ raisedIn i s u.phase c ∧ t = u.raiseError c := by
  rcases clear_start_or i s with ⟨rfl, hp⟩ | hi
  · obtain rfl := exec_clear_next hp h
    cases ht
  obtain ⟨r, hr, rfl | ⟨u, hu, hend⟩⟩ := exec_cases_anyStore hi h
  · exact absurd ht hs
  cases hend with
  | byte | eof | push | done => exact absurd ht (hu.phase hs)
  | @error c hcount hraised => exact ⟨r, u, c, hr, hu, hcount, hraised, rfl⟩

/-- Settles O23. What the error entry records is in `State.raiseError`; the rest is the frame of the computation. -/
theorem errorEntryRecords : Obligations.ErrorEntryRecords := by
  intro i s t h hs ht
  obtain ⟨r, u, c, hr, hu, hcount, hraised, rfl⟩ := exec_enters_error h hs ht
  have hinfo : (u.raiseError c).errInfo = u.phase.code ++ ((s.accept i).word).extractLsb' 0 8 := by
    have hword : u.word = (s.accept i).word := by simp only [hr, State.word, hu.run]
    rw [State.raiseError_errInfo, errInfoOf, opcodeOf, hword]
  refine ⟨rfl, congrArg setErr hu.irqStatus, ⟨c, rfl, c.code_ne_zero, fun hinv => ?_⟩,
    ⟨u.phase, phase_ne_error_of_raisedIn hs hraised, hinfo, hraised.2⟩, rfl, rfl, rfl, hu.inFifo, hu.inCount,
    hu.outFifo, hu.outCount, hcount⟩
  rw [failingPhase_of_raisedIn hinv hraised, hinfo]

end Sys2Proof.Machine
end

/-! ## IRQ_STATUS, the interrupt line, and the sticky flags of STATUS
(spec/10_state.md R35, R41, R56; spec/60_exceptions.md R315, R320) -/

section
namespace Sys2Proof.Machine

/-! ### Writes of IRQ_STATUS and IRQ_EN -/

theorem writeCsr_irqStatus {s : State} (h : s.inReset = false) (v : Word) :
    writeCsr 0x0018#16 v s = { s with irqStatus := ackIrq s.irqStatus v } := by
  simp [writeCsr, h]

theorem writeCsr_irqEn {s : State} (h : s.inReset = false) (v : Word) :
    writeCsr 0x0014#16 v s = { s with irqEn := v.setWidth 2 } := by
  simp [writeCsr, h]

/-- Writing 1 to a bit clears it, writing 0 leaves it (R41). -/
theorem getLsbD_ackIrq (irq : BitVec 2) (v : Word) {k : Nat} (hk : k < 2) :
    (ackIrq irq v).getLsbD k = (irq.getLsbD k && !v.getLsbD k) := by
  simp [ackIrq, hk]

/-- Writing back what was read clears every bit. -/
theorem ackIrq_self (irq : BitVec 2) : ackIrq irq (irq.setWidth 32) = 0#2 := by
  revert irq
  decide

theorem setWidth_two_eq_append (x : BitVec 2) : x.setWidth 32 = 0#30 ++ x := by
  revert x
  decide

theorem getLsbD_zero_setDone (irq : BitVec 2) : (setDone irq).getLsbD 0 = true := by
  simp [setDone]

theorem getLsbD_one_setErr (irq : BitVec 2) : (setErr irq).getLsbD 1 = true := by
  simp [setErr]

/-- A write of IRQ_STATUS changes that register and nothing else, and in reset nothing at all. -/
theorem writeCsr_irqStatus_frame (v : Word) (s : State) :
    writeCsr 0x0018#16 v s = { s with irqStatus := (writeCsr 0x0018#16 v s).irqStatus } := by
  obtain ⟨irq, h⟩ : ∃ irq, writeCsr 0x0018#16 v s = { s with irqStatus := irq } := by
    by_cases hr : s.inReset = true
    · exact ⟨_, writeCsr_inReset hr⟩
    · exact ⟨_, writeCsr_irqStatus (by simpa using hr) v⟩
  rw [h]

/-! ### What a step does to IRQ_STATUS -/

/-- A step that ends the command is an error entry or a completion; CLEAR also clears ERR (R41, R156). -/
theorem exec_ended_irqStatus {i : Instr} {s t : State} (h : exec i s = .next t) (ht : t.run = none) :
    (t.phase = .error ∧ t.irqStatus = setErr s.irqStatus) ∨ (i ≠ .clear ∧ t.irqStatus = setDone s.irqStatus) ∨
      (i = .clear ∧ t.irqStatus.getLsbD 0 = true) := by
  rcases clear_start_or i s with ⟨rfl, hp⟩ | hi
  · obtain rfl := exec_clear_next hp h
    exact .inr (.inr ⟨rfl, getLsbD_zero_setDone _⟩)
  obtain ⟨r, -, rfl | ⟨u, hu, hend⟩⟩ := exec_cases_anyStore hi h
  · cases ht
  cases hend with
  | byte | eof | push => simp [hu.run] at ht
  | error => exact .inl ⟨rfl, congrArg setErr hu.irqStatus⟩
  | done =>
    by_cases hc : i = .clear
    · exact .inr (.inr ⟨hc, getLsbD_zero_setDone _⟩)
    · exact .inr (.inl ⟨hc, congrArg setDone hu.irqStatus⟩)

/-- A step that does not end the command leaves IRQ_STATUS. -/
theorem exec_running_irqStatus {i : Instr} {s t : State} (h : exec i s = .next t) (ht : t.run ≠ none) :
    t.irqStatus = s.irqStatus := by
  rcases clear_start_or i s with ⟨rfl, hp⟩ | hi
  · obtain rfl := exec_clear_next hp h
    exact absurd rfl ht
  obtain ⟨r, -, rfl | ⟨u, hu, hend⟩⟩ := exec_cases_anyStore hi h
  · rfl
  cases hend with
  | byte | eof | push => exact hu.irqStatus
  | done | error => exact absurd rfl ht

/-- A step with a write of IRQ_STATUS on it is the engine step after the write: the set event wins (R41, R315). -/
theorem step_ackSameStep {s : State} {i : Instr} {v : Word} {rest : List Move} {r : Run} (hr : s.run = some r)
    (hd : decode r.word = .ok i) (hreset : s.inReset = false) (hhost : s.host = .ackSameStep v :: rest) :
    step s = exec i { s with host := rest, irqStatus := ackIrq s.irqStatus v } := by
  have hack : ackWrite v { s with host := rest } = { s with host := rest, irqStatus := ackIrq s.irqStatus v } :=
    writeCsr_irqStatus (s := { s with host := rest }) hreset v
  have hstep : step s = engineTurn (ackWrite v { s with host := rest }) := by
    simp [step, hhost, Move.ready, Move.leavesEngine, Move.act]
  rw [hstep, hack]
  exact engineTurn_ok (s := { s with host := rest, irqStatus := ackIrq s.irqStatus v }) hr hd hreset

/-- Settles O15. The set event is the last thing a step does to IRQ_STATUS, so it wins over a write on that step. -/
theorem irqStatusRegisterAndLine : Obligations.IrqStatusRegisterAndLine := by
  refine ⟨fun s v k hreset hk => ?_, fun s v => writeCsr_irqStatus_frame v s, fun s => ?_, fun i s t h ht => ?_,
    fun i s t h ht => exec_running_irqStatus h ht, fun i s t v rest hr hreset hhost h ht => ?_, fun c => rfl,
    fun s => by simp [State.irq], fun s hreset => ?_, fun s hreset => ?_⟩
  · rw [writeCsr_irqStatus hreset]
    exact getLsbD_ackIrq s.irqStatus v hk
  · rw [readCsr_fixed csrAt_irqStatus nofun rfl, csrExact, setWidth_two_eq_append]
  · exact exec_ended_irqStatus h ht
  · rw [step_ackSameStep hr (decode_encode i) hreset hhost] at h
    refine ⟨fun hne => ?_, fun hs he => ?_⟩
    · rcases exec_ended_irqStatus h ht with ⟨he, -⟩ | ⟨-, hirq⟩ | ⟨-, hirq⟩
      · exact absurd he hne
      · rw [hirq]
        exact getLsbD_zero_setDone _
      · exact hirq
    · obtain ⟨_, u, c, -, -, -, -, rfl⟩ := exec_enters_error h hs he
      exact getLsbD_one_setErr _
  · simp [writeCsr_irqStatus hreset, ackIrq_self, State.irq]
  · simp [writeCsr_irqEn hreset, State.irq]

/-! ### The sticky flags -/

/-- END, IN_CLOSED and CMD_DROP stay set from `s` to `t`. -/
structure KeepsFlags (s t : State) : Prop where
  endFlag  : s.endFlag = true → t.endFlag = true := by exact id
  inClosed : s.inClosed = true → t.inClosed = true := by exact id
  cmdDrop  : s.cmdDrop = true → t.cmdDrop = true := by exact id

theorem KeepsFlags.trans {s t u : State} (h : KeepsFlags s t) (k : KeepsFlags t u) : KeepsFlags s u :=
  ⟨k.endFlag ∘ h.endFlag, k.inClosed ∘ h.inClosed, k.cmdDrop ∘ h.cmdDrop⟩

theorem exec_keeps_flags {i : Instr} {s t : State} (hi : i ≠ .clear) (h : exec i s = .next t) : KeepsFlags s t := by
  obtain ⟨r, -, rfl | ⟨u, hu, hend⟩⟩ := exec_cases_anyStore (.inl hi) h
  · exact {}
  have hkept : KeepsFlags s u := ⟨hu.endFlag, hu.inClosed.trans, hu.cmdDrop.trans⟩
  cases hend with
  | byte | eof | push | done | error => exact { hkept with }

theorem lookupOpcode_mem {op : Byte} {rows : List (Byte × Instr)} {i : Instr} (h : lookupOpcode op rows = some i) :
    (op, i) ∈ rows := by
  induction rows with
  | nil => cases h
  | cons row rows ih =>
    obtain ⟨o, j⟩ := row
    unfold lookupOpcode at h
    split at h
    · next ho =>
      cases h
      exact ho ▸ List.mem_cons_self
    · exact List.mem_cons_of_mem _ (ih h)

/-- A word is its reserved field and its opcode (R110). -/
theorem word_ext {w v : Word} (hres : reservedOf w = reservedOf v) (hop : opcodeOf w = opcodeOf v) : w = v := by
  have hr := congrArg BitVec.toNat hres
  have ho := congrArg BitVec.toNat hop
  simp only [reservedOf, opcodeOf, BitVec.extractLsb'_toNat, Nat.shiftRight_eq_div_pow] at hr ho
  apply BitVec.eq_of_toNat_eq
  omega

/-- A command has one word (R111). -/
theorem eq_encode_of_decode {w : Word} {i : Instr} (h : decode w = .ok i) : w = encode i := by
  unfold decode at h
  split at h
  · next hres =>
    split at h
    · next j hj =>
      cases h
      have hrows : ∀ e ∈ opcodeRows, e.1 = opcodeOf (encode e.2) ∧ reservedOf (encode e.2) = 0#24 := by decide
      obtain ⟨hop, hres'⟩ := hrows _ (lookupOpcode_mem hj)
      exact word_ext (hres.trans hres'.symm) hop
    · cases h
  · cases h

theorem engineTurn_keeps_flags {s t : State} (hrun : ∀ r, s.run = some r → r.word ≠ encode .clear)
    (h : engineTurn s = .next t) : KeepsFlags s t := by
  unfold engineTurn at h
  split at h
  · cases h; exact {}
  split at h
  · cases h; exact {}
  · next i hf =>
    obtain ⟨r, hr, hd⟩ := Option.map_eq_some_iff.mp hf
    refine exec_keeps_flags ?_ h
    rintro rfl
    exact hrun r hr (eq_encode_of_decode hd)
  · cases h; exact {}

theorem writeCsr_keeps_flags (a : Addr) (v : Word) (s : State) : KeepsFlags s (writeCsr a v s) := by
  rcases writeCsr_cases a v s with he | ⟨-, ⟨-, he⟩ | ⟨-, he⟩ | ⟨-, he⟩ | ⟨-, he⟩ | ⟨-, he⟩⟩ <;> rw [he]
  · exact {}
  · unfold writeCmd
    split
    · exact { cmdDrop := fun _ => rfl }
    split
    · exact { cmdDrop := fun _ => rfl }
    · exact {}
  · unfold writeCtrl
    split
    · exact { inClosed := fun _ => rfl }
    · exact {}
  · unfold writeChunkSize
    split
    · exact {}
    split <;> exact {}
  · exact {}
  · exact {}

theorem readReply_keeps_flags (a : Addr) (s : State) : KeepsFlags s (readReply a s) := by
  unfold readReply
  rcases readCsr_state a s with he | he <;> rw [he] <;> exact {}

/-- No host move but reset clears a flag (R35, R56). -/
theorem act_keeps_flags {m : Move} (s : State) (h1 : m ≠ .rstAssert) (h2 : m ≠ .rstRelease) :
    KeepsFlags s (m.act s) := by
  cases m with
  | csrRead a => exact readReply_keeps_flags a s
  | csrWrite a v => exact writeCsr_keeps_flags a v s
  | send b last =>
    simp only [Move.act]
    split
    · exact {}
    · exact { inClosed := fun hc => by simp [sendByte, hc] }
  | recv =>
    simp only [Move.act, recvByte]
    split <;> exact {}
  | waitIdle => exact readReply_keeps_flags 0x0008#16 s
  | waitIrq | engine => exact {}
  | ackSameStep v => exact writeCsr_keeps_flags 0x0018#16 v s
  | rstAssert => exact absurd rfl h1
  | rstRelease => exact absurd rfl h2

/-- A move that leaves the step to the engine starts no command. -/
theorem act_run_of_leavesEngine {m : Move} (s : State) (h : m.leavesEngine = true) : (m.act s).run = s.run := by
  cases m with
  | engine => rfl
  | ackSameStep v =>
    simp only [Move.act, ackWrite]
    rw [writeCsr_irqStatus_frame]
  | csrRead | csrWrite | send | recv | waitIdle | waitIrq | rstAssert | rstRelease => cases h

/-- Settles O55. Neither a host move but reset nor an engine step but CLEAR's clears a flag. -/
theorem statusFlagsAreSticky : Obligations.StatusFlagsAreSticky := by
  intro s t h hrun hassert hrelease
  suffices hflags : KeepsFlags s t from ⟨hflags.endFlag, hflags.inClosed, hflags.cmdDrop⟩
  rcases step_cases s with ⟨-, he⟩ | ⟨m, rest, hhost, hmove⟩
  · exact engineTurn_keeps_flags hrun (he.symm.trans h)
  have hact : KeepsFlags s (m.act { s with host := rest }) :=
    .trans (t := { s with host := rest }) {}
      (act_keeps_flags _ (fun hm => hassert rest (hm ▸ hhost)) fun hm => hrelease rest (hm ▸ hhost))
  rcases hmove with ⟨-, -, he⟩ | ⟨-, hleaves, he⟩ | ⟨-, he⟩ <;> rw [he] at h
  · cases h
    exact hact
  · refine hact.trans (engineTurn_keeps_flags (fun r hr => hrun r ?_) h)
    rwa [act_run_of_leavesEngine _ hleaves] at hr
  · exact engineTurn_keeps_flags hrun h

end Sys2Proof.Machine
end

/-! ## CT_GEN: the paths of the leaves, and the first step of a command (spec/41_encoder.md R170, R171) -/

section
namespace Sys2Proof.Machine

/-! ### The first step -/

theorem accept_of_atStart {i : Instr} {s : State} (h : AtStart i s) :
    s.accept i = { s with run := some { word := encode i, point := .start } } := by
  rw [accept_eq]
  rcases h with h | h <;> rw [h] <;> rfl

/-- The first step of a command in a phase it may run in is its Body's (R113, R150). -/
theorem exec_atStart {i : Instr} {s : State} (h : AtStart i s) (hphase : allowedIn i s.phase = true) :
    exec i s = finishStep { s with run := some { word := encode i, point := .start } }
      (bodyOf i { s with run := some { word := encode i, point := .start } }) := by
  rw [exec_eq_engineStep, engineStep, accept_of_atStart h]
  simp [compute, State.point, hphase]

/-! ### The CODE tables -/

section
variable {n : Nat} (f : Bits → BitVec n) {leaves : List (Byte × Bits)}

/-- A symbol without a leaf keeps its entry. -/
theorem entry_foldl_put_of_notMem (t : Table (BitVec n)) {b : Byte} (h : b ∉ leaves.map Prod.fst) :
    Table.entry (leaves.foldl (fun t l => Table.put t l.1.toNat (f l.2)) t) b.toNat = Table.entry t b.toNat := by
  induction leaves generalizing t with
  | nil => rfl
  | cons l leaves ih =>
    obtain ⟨hne, hrest⟩ := not_or.mp (mt List.mem_cons.mpr h)
    rw [List.foldl_cons, ih _ hrest, Table.entry_put_of_ne]
    exact fun he => hne (BitVec.eq_of_toNat_eq he)

/-- Where every symbol has one leaf, its entry is what its leaf assigns. -/
theorem entry_foldl_put_of_mem (t : Table (BitVec n)) (hnd : (leaves.map Prod.fst).Nodup) {l : Byte × Bits}
    (hl : l ∈ leaves) :
    Table.entry (leaves.foldl (fun t l => Table.put t l.1.toNat (f l.2)) t) l.1.toNat = f l.2 := by
  induction leaves generalizing t with
  | nil => cases hl
  | cons l' leaves ih =>
    obtain ⟨hnot, hnd'⟩ := List.nodup_cons.mp hnd
    rw [List.foldl_cons]
    rcases List.mem_cons.mp hl with rfl | hl
    · rw [entry_foldl_put_of_notMem f _ hnot, Table.entry_put_self _ _ l.1.isLt]
    · exact ih _ hnd' hl

end

/-- str_L(val(s)) = s: a path of at most 32 bits is recovered from its length and its value (R17). -/
theorem bitsOf_bitsVal (p : Bits) (h : p.length ≤ 32) : bitsOf p.length (BitVec.ofNat 32 (bitsVal p)) = p := by
  have hbits : ∀ p : Bits, (List.range p.length).reverse.map (bitsVal p).testBit = p := by
    intro p
    induction p using List.reverseRecOn with
    | nil => rfl
    | append_singleton p b ih =>
      have hlow : (bitsVal (p ++ [b])).testBit 0 = b := by
        rw [bitsVal_append_single]
        cases b <;> simp [Nat.testBit_zero, Nat.add_mod]
      have hhigh : ∀ j, (bitsVal (p ++ [b])).testBit (j + 1) = (bitsVal p).testBit j := by
        intro j
        rw [bitsVal_append_single, Nat.testBit_succ]
        congr 1
        cases b <;> simp
        omega
      rw [List.length_append, List.length_singleton, List.range_succ_eq_map, List.reverse_cons, List.map_append,
        ← List.map_reverse, List.map_map]
      simp [Function.comp_def, hlow, hhigh, ih]
  conv_rhs => rw [← hbits p]
  refine List.map_congr_left fun j hj => ?_
  have hj' : j < p.length := by simpa using hj
  rw [BitVec.getLsbD_ofNat]
  simp [show j < 32 by omega]

/-- CT_GEN's Body where no leaf is deeper than 32. -/
theorem ctGenBody_of_le {s : State} (h : ∀ l ∈ leavesOf s.tree, l.2.length ≤ 32) :
    ctGenBody s = .done { s with
      codeLen := codeLenOf (leavesOf s.tree), codeVal := codeValOf (leavesOf s.tree), codeSpec := true
      tree := none, queue := []
      bitLen := BitVec.ofNat 32 (payloadBits s.freq (codeLenOf (leavesOf s.tree)))
      byteLen := BitVec.ofNat 32
        (ceil8 (BitVec.ofNat 32 (payloadBits s.freq (codeLenOf (leavesOf s.tree)))).toNat)
      phase := .eCodes } := by
  have hany : (leavesOf s.tree).any (fun l => decide (32 < l.2.length)) = false := by simpa using h
  simp [ctGenBody, hany]

/-- CT_GEN where no leaf is deeper than 32. -/
theorem exec_ctGen_of_le {s : State} (hs : AtStart .ctGen s) (hp : s.phase = .eTree)
    (h : ∀ l ∈ leavesOf s.tree, l.2.length ≤ 32) :
    exec .ctGen s = .next { s with
      codeLen := codeLenOf (leavesOf s.tree), codeVal := codeValOf (leavesOf s.tree), codeSpec := true
      bitLen := BitVec.ofNat 32 (payloadBits s.freq (codeLenOf (leavesOf s.tree)))
      byteLen := BitVec.ofNat 32
        (ceil8 (BitVec.ofNat 32 (payloadBits s.freq (codeLenOf (leavesOf s.tree)))).toNat)
      tree := none, queue := [], phase := .eCodes, run := none, irqStatus := setDone s.irqStatus } := by
  rw [exec_atStart hs (by simp [allowedIn, hp])]
  exact congrArg (finishStep _)
    (ctGenBody_of_le (s := { s with run := some { word := encode .ctGen, point := .start } }) h)

/-- CT_GEN reaches E_CODES only where no leaf is deeper than 32: else it raises CODE_TOO_LONG. -/
theorem length_le_of_exec_ctGen {s t : State} (hs : AtStart .ctGen s) (hp : s.phase = .eTree)
    (h : exec .ctGen s = .next t) (ht : t.phase = .eCodes) : ∀ l ∈ leavesOf s.tree, l.2.length ≤ 32 := by
  by_contra hdeep
  have hany : (leavesOf s.tree).any (fun l => decide (32 < l.2.length)) = true := by simpa using hdeep
  rw [exec_atStart hs (by simp [allowedIn, hp])] at h
  simp only [bodyOf, ctGenBody, hany, if_true, finishStep_error, Host.Outcome.next.injEq] at h
  subst h
  cases ht

/-- Settles O32. Each symbol has one leaf, so its entries are what that leaf assigns. -/
theorem ctGenCompletesWithThePathsOfTheLeaves : Obligations.CtGenCompletesWithThePathsOfTheLeaves := by
  refine ⟨fun s => exec_ctGen_of_le, fun s t hs hp h ht hnd => ?_⟩
  have hle := length_le_of_exec_ctGen hs hp h ht
  rw [exec_ctGen_of_le hs hp hle] at h
  cases h
  refine ⟨fun l hl => ?_, fun b hb => ⟨?_, ?_⟩⟩
  · have hlen : Table.entry (codeLenOf (leavesOf s.tree)) l.1.toNat = BitVec.ofNat 6 l.2.length :=
      entry_foldl_put_of_mem (fun p => BitVec.ofNat 6 p.length) _ hnd hl
    have hval : Table.entry (codeValOf (leavesOf s.tree)) l.1.toNat = BitVec.ofNat 32 (bitsVal l.2) :=
      entry_foldl_put_of_mem (fun p => BitVec.ofNat 32 (bitsVal p)) _ hnd hl
    have hlenNat : (BitVec.ofNat 6 l.2.length).toNat = l.2.length :=
      BitVec.toNat_ofNat .. |>.trans (Nat.mod_eq_of_lt (Nat.lt_of_le_of_lt (hle l hl) (by decide)))
    have hvalLt : bitsVal l.2 < 2 ^ 32 :=
      (bitsVal_lt l.2).trans_le (Nat.pow_le_pow_right (by decide) (hle l hl))
    refine ⟨by rw [hlen, hlenNat], ?_, ?_⟩
    · rw [hval, BitVec.toNat_ofNat, Nat.mod_eq_of_lt hvalLt]
    · rw [codewordOf, hlen, hval, hlenNat, bitsOf_bitsVal l.2 (hle l hl)]
  · exact (entry_foldl_put_of_notMem (fun p => BitVec.ofNat 6 p.length) _ hb).trans (Table.entry_zero 6 _)
  · exact (entry_foldl_put_of_notMem (fun p => BitVec.ofNat 32 (bitsVal p)) _ hb).trans (Table.entry_zero 32 _)

end Sys2Proof.Machine
end

/-! ## The registers (spec/10_state.md R30 to R55) -/

section
namespace Sys2Proof.Machine

/-! ### The register map -/

@[simp] theorem csrAt_chunkCount : csrAt 0x0024#16 = .chunkCount := rfl
@[simp] theorem csrAt_curLen : csrAt 0x0030#16 = .curLen := rfl
@[simp] theorem csrAt_dictCount : csrAt 0x0034#16 = .dictCount := rfl
@[simp] theorem csrAt_bitLen : csrAt 0x0038#16 = .bitLen := rfl
@[simp] theorem csrAt_byteLen : csrAt 0x003C#16 = .byteLen := rfl

/-- Bits 1:0 of an address are ignored (spec/20_memory.md R92). -/
theorem csrAt_eq_of_div_eq {a b : Addr} (h : a.toNat / 4 = b.toNat / 4) : csrAt a = csrAt b := by
  simp only [csrAt, h]

theorem csrAt_add_low {base lo : Nat} (hbase : base % 4 = 0) (hlo : lo < 4) (hmax : base + lo < 2 ^ 16) :
    csrAt (BitVec.ofNat 16 (base + lo)) = csrAt (BitVec.ofNat 16 base) := by
  apply csrAt_eq_of_div_eq
  rw [BitVec.toNat_ofNat, BitVec.toNat_ofNat, Nat.mod_eq_of_lt hmax, Nat.mod_eq_of_lt (by omega)]
  omega

section
variable {i lo : Nat} (hi : i < 256) (hlo : lo < 4)
include hi hlo

/-- The word address of entry `i` of a table window. -/
theorem wordAddr_entry {base : Nat} (hbase : base % 4 = 0) (hmax : base ≤ 0x1400) :
    (BitVec.ofNat 16 (base + 4 * i + lo)).toNat / 4 * 4 = base + 4 * i := by
  rw [BitVec.toNat_ofNat, Nat.mod_eq_of_lt (by omega)]
  omega

theorem csrAt_freq : csrAt (BitVec.ofNat 16 (0x0400 + 4 * i + lo)) = .freq i := by
  rw [csrAt, wordAddr_entry hi hlo (by decide) (by decide)]
  rw [if_pos (by omega), Nat.add_sub_cancel_left, Nat.mul_div_cancel_left i (by decide)]

theorem csrAt_codeVal : csrAt (BitVec.ofNat 16 (0x0800 + 4 * i + lo)) = .codeVal i := by
  rw [csrAt, wordAddr_entry hi hlo (by decide) (by decide)]
  rw [if_neg (by omega), if_pos (by omega), Nat.add_sub_cancel_left, Nat.mul_div_cancel_left i (by decide)]

theorem csrAt_codeLen : csrAt (BitVec.ofNat 16 (0x0C00 + 4 * i + lo)) = .codeLen i := by
  rw [csrAt, wordAddr_entry hi hlo (by decide) (by decide)]
  rw [if_neg (by omega), if_neg (by omega), if_pos (by omega), Nat.add_sub_cancel_left,
    Nat.mul_div_cancel_left i (by decide)]

theorem csrAt_dictSymLen : csrAt (BitVec.ofNat 16 (0x1000 + 4 * i + lo)) = .dictSymLen i := by
  rw [csrAt, wordAddr_entry hi hlo (by decide) (by decide)]
  rw [if_neg (by omega), if_neg (by omega), if_neg (by omega), if_pos (by omega), Nat.add_sub_cancel_left,
    Nat.mul_div_cancel_left i (by decide)]

theorem csrAt_dictVal : csrAt (BitVec.ofNat 16 (0x1400 + 4 * i + lo)) = .dictVal i := by
  rw [csrAt, wordAddr_entry hi hlo (by decide) (by decide)]
  rw [if_neg (by omega), if_neg (by omega), if_neg (by omega), if_neg (by omega), if_pos (by omega),
    Nat.add_sub_cancel_left, Nat.mul_div_cancel_left i (by decide)]

end

/-! ### Reads -/

/-- A read of a single register whose value is fixed, at any of its four byte addresses. -/
theorem readCsr_add_low {base lo : Nat} {r : Csr} {s : State} (hr : csrAt (BitVec.ofNat 16 base) = r)
    (hne : r ≠ .status) (hfix : csrFixed r s = true) (hlo : lo < 4)
    (hbase : base % 4 = 0 ∧ base + 4 ≤ 2 ^ 16 := by decide) :
    readCsr (BitVec.ofNat 16 (base + lo)) s = (csrExact r s, s) :=
  readCsr_fixed ((csrAt_add_low hbase.1 hlo (by omega)).trans hr) hne hfix

/-- A read of any register but STATUS gives its exact value or a free one in the bits it has. -/
theorem readCsr_value {a : Addr} {r : Csr} (ha : csrAt a = r) (hr : r ≠ .status) (s : State) :
    (readCsr a s).1 = csrExact r s ∨ ∃ w, (readCsr a s).1 = csrFree r w s := by
  subst ha
  unfold readCsr
  split
  · exact absurd ‹_› hr
  split
  · exact .inl rfl
  · exact .inr ⟨_, rfl⟩

theorem readCsr_status_idle {s : State} (h : s.busy = false) :
    readCsr 0x0008#16 s = (statusWord s.phase s, s) := by
  simp [readCsr, h]

/-- A read of STATUS gives it with one of the shown phases (R53). -/
theorem readCsr_status (s : State) : ∃ p ∈ shownPhases s, (readCsr 0x0008#16 s).1 = statusWord p s := by
  rcases hb : s.busy with _ | _
  · exact ⟨s.phase, phase_mem_shownPhases s, by rw [readCsr_status_idle hb]⟩
  · exact ⟨shownPhase s, shownPhase_mem s, by simp [readCsr, hb]⟩

/-! ### The fields of a word -/

/-- Bits from `n` on that are 0. -/
theorem ushiftRight_eq_zero {w : Word} {n k : Nat} (hk : n + k = 32) (h : w.extractLsb' n k = 0#k) :
    w >>> n = 0#32 := by
  refine BitVec.eq_of_getLsbD_eq fun j hj => ?_
  rw [BitVec.getLsbD_ushiftRight, BitVec.getLsbD_zero]
  by_cases hlt : j < k
  · have hbit := congrArg (·.getLsbD j) h
    simpa [hlt] using hbit
  · exact BitVec.getLsbD_of_ge w (n + j) (by omega)

/-- A register of `n` bits has 0 in the bits above. -/
theorem setWidth_ushiftRight {n : Nat} (x : BitVec n) : x.setWidth 32 >>> n = 0#32 := by
  refine BitVec.eq_of_getLsbD_eq fun j _ => ?_
  rw [BitVec.getLsbD_ushiftRight, BitVec.getLsbD_setWidth, BitVec.getLsbD_of_ge x (n + j) (by omega)]
  simp

/-- DICT_SYMLEN has its symbol in bits 7:0, its length in bits 13:8, and 0 above (R54). -/
theorem symLenWord_fields (sym : Byte) (len : BitVec 6) :
    (symLenWord sym len).extractLsb' 0 8 = sym ∧ (symLenWord sym len).extractLsb' 8 6 = len ∧
      (symLenWord sym len).extractLsb' 14 18 = 0#18 := by
  refine ⟨BitVec.extractLsb'_append_eq_right, ?_, ?_⟩
  · exact (BitVec.extractLsb'_append_eq_of_le (by decide)).trans BitVec.extractLsb'_append_eq_right
  · exact (BitVec.extractLsb'_append_eq_of_le (by decide)).trans BitVec.extractLsb'_append_eq_left

/-- Each flag of STATUS at its bit, and the reserved bit 7 (R35). -/
theorem statusWord_flags (p : Phase) (s : State) :
    (statusWord p s).getLsbD 0 = s.busy ∧ (statusWord p s).getLsbD 1 = decide (s.phase = .error) ∧
      (statusWord p s).getLsbD 2 = s.endFlag ∧ (statusWord p s).getLsbD 3 = s.inClosed ∧
      (statusWord p s).getLsbD 4 = s.inFifo.isEmpty ∧ (statusWord p s).getLsbD 5 = s.outFifo.isEmpty ∧
      (statusWord p s).getLsbD 6 = s.cmdDrop ∧ (statusWord p s).getLsbD 7 = false := by
  simp only [statusWord, BitVec.getLsbD_append]
  simp

/-- PHASE is bits 11:8 of STATUS, and bits 31:12 are reserved (R35). -/
theorem statusWord_phase (p : Phase) (s : State) :
    (statusWord p s).extractLsb' 8 4 = p.code ∧ (statusWord p s).extractLsb' 12 20 = 0#20 := by
  unfold statusWord
  constructor
  · simp only [BitVec.extractLsb'_append_eq_of_le, Nat.le_refl, Nat.reduceLeDiff, Nat.reduceSub]
    exact BitVec.extractLsb'_append_eq_right
  · simp only [BitVec.extractLsb'_append_eq_of_le, Nat.le_refl, Nat.reduceLeDiff, Nat.reduceSub]
    rfl

/-! ### Writes -/

theorem writeCsr_chunkSize {s : State} (h : s.inReset = false) (v : Word) :
    writeCsr 0x0010#16 v s = writeChunkSize v s := by
  simp [writeCsr, h]

theorem writeCsr_ctrl {s : State} (h : s.inReset = false) (v : Word) :
    writeCsr 0x000C#16 v s = writeCtrl v s := by
  simp [writeCsr, h]

/-- Two writes that do the same outside reset do the same: in reset neither does anything (R350). -/
theorem writeCsr_congr {a : Addr} {v w : Word} {s : State}
    (h : s.inReset = false → writeCsr a v s = writeCsr a w s) : writeCsr a v s = writeCsr a w s := by
  by_cases hr : s.inReset = true
  · rw [writeCsr_inReset hr, writeCsr_inReset hr]
  · exact h (by simpa using hr)

/-- A write that leaves the state outside reset leaves it. -/
theorem writeCsr_eq_self {a : Addr} {v : Word} {s : State} (h : s.inReset = false → writeCsr a v s = s) :
    writeCsr a v s = s := by
  by_cases hr : s.inReset = true
  · exact writeCsr_inReset hr
  · exact h (by simpa using hr)

theorem writeCmd_frame (w : Word) (s : State) :
    ∃ run cmdDrop free, writeCmd w s = { s with run := run, cmdDrop := cmdDrop, free := free } := by
  unfold writeCmd
  split
  · exact ⟨_, _, _, rfl⟩
  split
  · exact ⟨_, _, _, rfl⟩
  · exact ⟨_, _, _, rfl⟩

theorem writeCtrl_frame (v : Word) (s : State) :
    ∃ inClosed, writeCtrl v s = { s with inClosed := inClosed } := by
  unfold writeCtrl
  split
  · exact ⟨_, rfl⟩
  · exact ⟨_, rfl⟩

theorem writeChunkSize_frame (v : Word) (s : State) :
    ∃ chunkSize, writeChunkSize v s = { s with chunkSize := chunkSize } := by
  unfold writeChunkSize
  split
  · exact ⟨_, rfl⟩
  split
  · exact ⟨_, rfl⟩
  · exact ⟨_, rfl⟩

/-- All that a write may change. -/
theorem writeCsr_frame (a : Addr) (v : Word) (s : State) :
    ∃ run cmdDrop inClosed chunkSize irqEn irqStatus free, writeCsr a v s = { s with
      run := run, cmdDrop := cmdDrop, inClosed := inClosed, chunkSize := chunkSize, irqEn := irqEn
      irqStatus := irqStatus, free := free } := by
  rcases writeCsr_cases a v s with he | ⟨-, ⟨-, he⟩ | ⟨-, he⟩ | ⟨-, he⟩ | ⟨-, he⟩ | ⟨-, he⟩⟩ <;> rw [he]
  · exact ⟨_, _, _, _, _, _, _, rfl⟩
  · obtain ⟨run, cmdDrop, free, h⟩ := writeCmd_frame v s
    exact ⟨_, _, _, _, _, _, _, h⟩
  · obtain ⟨inClosed, h⟩ := writeCtrl_frame v s
    exact ⟨_, _, _, _, _, _, _, h⟩
  · obtain ⟨chunkSize, h⟩ := writeChunkSize_frame v s
    exact ⟨_, _, _, _, _, _, _, h⟩
  · exact ⟨_, _, _, _, _, _, _, rfl⟩
  · exact ⟨_, _, _, _, _, _, _, rfl⟩

/-- The registers that a write reaches are CMD, CTRL, CHUNK_SIZE, IRQ_EN and IRQ_STATUS (R55). -/
theorem writeCsr_readOnly {a : Addr} (h1 : csrAt a ≠ .cmd) (h2 : csrAt a ≠ .ctrl) (h3 : csrAt a ≠ .chunkSize)
    (h4 : csrAt a ≠ .irqEn) (h5 : csrAt a ≠ .irqStatus) (v : Word) (s : State) : writeCsr a v s = s := by
  rcases writeCsr_cases a v s with he | ⟨-, ⟨ha, -⟩ | ⟨ha, -⟩ | ⟨ha, -⟩ | ⟨ha, -⟩ | ⟨ha, -⟩⟩
  · exact he
  · exact absurd ha h1
  · exact absurd ha h2
  · exact absurd ha h3
  · exact absurd ha h4
  · exact absurd ha h5

/-! ### The obligations -/

/-- Settles O10. While BUSY = 0 the read is STATUS itself, field by field. -/
theorem statusFieldsReadExactly : Obligations.StatusFieldsReadExactly := by
  intro s hb
  obtain ⟨hbusy, hflags⟩ := statusWord_flags s.phase s
  obtain ⟨h1, h2, h3, h4, h5, h6, h7⟩ := hflags
  exact ⟨_, readCsr_status_idle hb, hbusy.trans hb, h1, h2, h3, h4, h5, h6, h7, statusWord_phase s.phase s⟩

/-- The commands of `phaseRows` run in their one phase (R113). -/
theorem allowedIn_of_mem_phaseRows {i : Instr} {p : Phase} (h : (i, p) ∈ phaseRows) (q : Phase) :
    allowedIn i q = decide (q = p) := by
  have hrows : ∀ e ∈ phaseRows, allowedIn e.1 q = decide (q = e.2) := by simp [phaseRows, allowedIn]
  exact hrows _ h

theorem shownPhases_of_wrongPhase {s : State} {i : Instr} {p : Phase}
    (hr : s.run = some { word := encode i, point := .start }) (hrow : (i, p) ∈ phaseRows) (hp : s.phase ≠ p) :
    shownPhases s = [s.phase] := by
  have hallow : allowedIn i s.phase = false := by
    rw [allowedIn_of_mem_phaseRows hrow]
    exact decide_eq_false hp
  simp [shownPhases, State.fetch, hr, decode_encode, aboutToRaiseSequence, State.point, hallow]

/-- Settles O11. The phase shown is one of the shown phases, whatever the free choice is. -/
theorem readsWhileBusy : Obligations.ReadsWhileBusy := by
  intro s hb
  obtain ⟨p, hp, hread⟩ := readCsr_status s
  refine ⟨⟨p, hp, hread, ?_⟩, fun i q hr hrow hq => ?_, readCsr_fixed csrAt_id nofun rfl,
    readCsr_fixed csrAt_chunkSize nofun rfl, readCsr_fixed csrAt_irqEn nofun rfl,
    readCsr_fixed csrAt_irqStatus nofun rfl, readCsr_fixed csrAt_errCode nofun rfl,
    readCsr_fixed csrAt_inCount nofun rfl, readCsr_fixed csrAt_outCount nofun rfl,
    readCsr_fixed csrAt_maxChunk nofun rfl⟩
  · obtain ⟨hbusy, h1, h2, h3, h4, h5, h6, -⟩ := statusWord_flags p s
    exact ⟨hbusy.trans hb, h1, h2, h3, h4, h5, h6⟩
  · rw [shownPhases_of_wrongPhase hr hrow hq, List.mem_singleton] at hp
    rw [hread, hp]

/-- Settles O12. Each address reaches its register, and the value of that register is fixed. -/
theorem resultRegistersAndTablesReadExactly : Obligations.ResultRegistersAndTablesReadExactly := by
  refine ⟨fun s lo hb hlo => ?_, fun s i lo hb hi hlo => ⟨fun hspec => ?_, fun hspec => ⟨?_, ?_⟩, fun hs hc => ?_⟩⟩
  · have hfix : (!s.busy) = true := by rw [hb]; rfl
    have hid := readCsr_add_low (s := s) csrAt_id nofun rfl hlo
    rw [Nat.zero_add] at hid
    exact ⟨hid,
      readCsr_add_low csrAt_chunkSize nofun rfl hlo, readCsr_add_low csrAt_irqEn nofun rfl hlo,
      readCsr_add_low csrAt_irqStatus nofun rfl hlo, readCsr_add_low csrAt_inCount nofun rfl hlo,
      readCsr_add_low csrAt_outCount nofun rfl hlo, readCsr_add_low csrAt_maxChunk nofun rfl hlo,
      readCsr_add_low csrAt_errCode nofun rfl hlo, readCsr_add_low csrAt_errInfo nofun hfix hlo,
      readCsr_add_low csrAt_chunkCount nofun hfix hlo, readCsr_add_low csrAt_curLen nofun hfix hlo,
      readCsr_add_low csrAt_dictCount nofun hfix hlo, readCsr_add_low csrAt_bitLen nofun hfix hlo,
      readCsr_add_low csrAt_byteLen nofun hfix hlo⟩
  · exact readCsr_fixed (csrAt_freq hi hlo) nofun (by simp [csrFixed, hb, hspec])
  · exact readCsr_fixed (csrAt_codeVal hi hlo) nofun (by simp [csrFixed, hb, hspec])
  · exact readCsr_fixed (csrAt_codeLen hi hlo) nofun (by simp [csrFixed, hb, hspec])
  · have hdict : dictFixed i s = true := by simp [dictFixed, hs, hc]
    exact ⟨⟨_, readCsr_fixed (csrAt_dictSymLen hi hlo) nofun (by simp [csrFixed, hb, hdict]),
      symLenWord_fields _ _⟩, readCsr_fixed (csrAt_dictVal hi hlo) nofun (by simp [csrFixed, hb, hdict])⟩

/-- Settles O13, from what a write of CHUNK_SIZE does and the first step of ENC_LOAD. -/
theorem chunkSizeRegister : Obligations.ChunkSizeRegister := by
  refine ⟨fun s v hr hb h1 h2 => ?_, fun s v hv => writeCsr_eq_self fun hr => ?_,
    fun s v hb => writeCsr_eq_self fun hr => ?_, fun c => rfl, fun s => readCsr_fixed csrAt_chunkSize nofun rfl,
    fun s b rest hs hp hcs hf => ?_⟩
  · simp [writeCsr_chunkSize hr, writeChunkSize, hb, h1, h2]
  · have hillegal : ¬ (1 ≤ v.toNat ∧ v.toNat ≤ s.cfg.maxChunk) := by omega
    simp only [writeCsr_chunkSize hr, writeChunkSize, hillegal, if_false, ite_self]
  · simp [writeCsr_chunkSize hr, writeChunkSize, hb]
  · rw [exec_atStart hs (by simp [allowedIn, hp])]
    simp only [bodyOf, encLoadStart, encLoadLoop]
    rw [if_pos (by exact hcs), finishStep_pop_byte (by exact hf)]
    exact ⟨_, rfl, rfl⟩

/-- Settles O14, from what a write of IRQ_EN and a write of CTRL do. -/
theorem irqEnAndCtrlRegisters : Obligations.IrqEnAndCtrlRegisters := by
  refine ⟨fun s v hr => ?_, fun s => ?_, fun c => rfl, fun s v hr hv => ?_,
    fun s v hv => writeCsr_eq_self fun hr => ?_, fun s => readCsr_fixed csrAt_ctrl nofun rfl⟩
  · rw [writeCsr_irqEn hr, BitVec.setWidth_eq_extractLsb' (by decide)]
  · rw [readCsr_fixed csrAt_irqEn nofun rfl, csrExact, setWidth_two_eq_append]
  · rw [writeCsr_ctrl hr, writeCtrl, if_pos hv]
  · rw [writeCsr_ctrl hr, writeCtrl, if_neg (by rw [hv]; exact Bool.false_ne_true)]

/-- The reserved bits of the registers that have a width of their own read 0 (R55). -/
theorem reservedBits_read_zero (s : State) :
    (readCsr 0x0014#16 s).1 >>> 2 = 0#32 ∧ (readCsr 0x0018#16 s).1 >>> 2 = 0#32 ∧
    (readCsr 0x001C#16 s).1 >>> 8 = 0#32 ∧ (readCsr 0x0020#16 s).1 >>> 12 = 0#32 ∧
    (readCsr 0x0008#16 s).1 >>> 12 = 0#32 ∧ (readCsr 0x0008#16 s).1.getLsbD 7 = false ∧
    (readCsr 0x0004#16 s).1 = 0#32 ∧ (readCsr 0x000C#16 s).1 = 0#32 := by
  obtain ⟨p, -, hread⟩ := readCsr_status s
  obtain ⟨-, -, -, -, -, -, -, hbit7⟩ := statusWord_flags p s
  refine ⟨?_, ?_, ?_, ?_, ?_, ?_, ?_, ?_⟩
  · rw [readCsr_fixed csrAt_irqEn nofun rfl]
    exact setWidth_ushiftRight s.irqEn
  · rw [readCsr_fixed csrAt_irqStatus nofun rfl]
    exact setWidth_ushiftRight s.irqStatus
  · rw [readCsr_fixed csrAt_errCode nofun rfl]
    exact setWidth_ushiftRight s.errCode
  · rcases readCsr_value csrAt_errInfo nofun s with h | ⟨w, h⟩ <;> rw [h]
    · exact setWidth_ushiftRight s.errInfo
    · exact setWidth_ushiftRight (w.setWidth 12)
  · rw [hread]
    exact ushiftRight_eq_zero rfl (statusWord_phase p s).2
  · rw [hread, hbit7]
  · rw [readCsr_fixed csrAt_cmd nofun rfl]
    rfl
  · rw [readCsr_fixed csrAt_ctrl nofun rfl]
    rfl

/-- A CODE_LEN entry has six bits, whether its value is fixed or free (R52). -/
theorem readCsr_codeLen_reserved {a : Addr} {i : Nat} (ha : csrAt a = .codeLen i) (s : State) :
    (readCsr a s).1 >>> 6 = 0#32 := by
  rcases readCsr_value ha nofun s with h | ⟨w, h⟩ <;> rw [h]
  · exact setWidth_ushiftRight (Table.entry s.codeLen i)
  · simp only [csrFree]
    split
    · exact setWidth_ushiftRight (w.setWidth 6)
    · exact setWidth_ushiftRight (freeLen w)

/-- A DICT_SYMLEN entry has fourteen bits, whether its value is fixed or free (R54). -/
theorem readCsr_dictSymLen_reserved {a : Addr} {i : Nat} (ha : csrAt a = .dictSymLen i) (s : State) :
    (readCsr a s).1 >>> 14 = 0#32 := by
  rcases readCsr_value ha nofun s with h | ⟨w, h⟩ <;> rw [h]
  · exact ushiftRight_eq_zero rfl (symLenWord_fields _ _).2.2
  · simp only [csrFree]
    split
    · exact setWidth_ushiftRight (w.setWidth 14)
    · exact ushiftRight_eq_zero rfl (symLenWord_fields _ _).2.2

/-- Reserved bits of a written value are ignored (R55). -/
theorem writeCsr_ignores_reserved (v : Word) (s : State) :
    writeCsr 0x0014#16 v s = writeCsr 0x0014#16 (v &&& 3#32) s ∧
    writeCsr 0x0018#16 v s = writeCsr 0x0018#16 (v &&& 3#32) s ∧
    writeCsr 0x000C#16 v s = writeCsr 0x000C#16 (v &&& 1#32) s := by
  have hlow : (v &&& 3#32).setWidth 2 = v.setWidth 2 := by
    rw [BitVec.setWidth_and]
    exact BitVec.and_allOnes
  refine ⟨writeCsr_congr fun hr => ?_, writeCsr_congr fun hr => ?_, writeCsr_congr fun hr => ?_⟩
  · rw [writeCsr_irqEn hr, writeCsr_irqEn hr, hlow]
  · rw [writeCsr_irqStatus hr, writeCsr_irqStatus hr, ackIrq, ackIrq, hlow]
  · simp [writeCsr_ctrl hr, writeCtrl]

/-- Settles O9, from all that a read and a write can do. -/
theorem unmappedReservedAndReadOnlyAccess : Obligations.UnmappedReservedAndReadOnlyAccess := by
  refine ⟨fun a s ha => ?_, fun a v s h1 h2 h3 h4 h5 => writeCsr_readOnly h1 h2 h3 h4 h5 v s, fun a v s => ?_,
    fun a s => ⟨?_, readCsr_idle⟩, reservedBits_read_zero, fun a s i ha => readCsr_codeLen_reserved ha s,
    fun a s i ha => readCsr_dictSymLen_reserved ha s, writeCsr_ignores_reserved⟩
  · rw [readCsr_fixed ha nofun rfl]
    exact ⟨rfl, rfl⟩
  · obtain ⟨run, cmdDrop, inClosed, chunkSize, irqEn, irqStatus, free, h⟩ := writeCsr_frame a v s
    rw [h]
  · rcases readCsr_state a s with h | h <;> rw [h]
    rfl

end Sys2Proof.Machine
end

/-! ## From a state that has the invariant no step faults (spec/20_memory.md R80) -/

section
namespace Sys2Proof.Machine

/-- A step of the running command goes on: its computation makes no buffer access that fails. -/
theorem exec_next_of_inv {i : Instr} {s : State} {r : Run} (h : Inv s) (hr : s.run = some r)
    (hd : decode r.word = .ok i) : ∃ t, exec i s = .next t := by
  cases he : exec i s with
  | next t => exact ⟨t, rfl⟩
  | refused x => exact absurd he (exec_ne_refused i s x)
  | fault f =>
    rw [exec_eq_engineStep, engineStep, accept_of_run hr] at he
    have hkept := kept_compute h hr hd
    rw [finishStep_fault_iff.mp he] at hkept
    exact hkept.elim

theorem engineTurn_next_of_inv {s : State} (h : Inv s) : ∃ t, engineTurn s = .next t := by
  cases hr : s.run with
  | none => exact ⟨_, engineTurn_idle hr⟩
  | some r =>
    have hreset : s.inReset = false := by
      by_contra hin
      cases hr.symm.trans (h.controlled.reset (by simpa using hin))
    cases hd : decode r.word with
    | error e => exact ⟨_, engineTurn_illegal hr hd hreset⟩
    | ok i =>
      rw [engineTurn_ok hr hd hreset]
      exact exec_next_of_inv h hr hd

/-- Settles O59. A host move always answers a next state, and the engine's turn finds the invariant. -/
theorem noStepFaults : Obligations.NoStepFaults := by
  intro s h
  rcases step_cases s with ⟨-, he⟩ | ⟨m, rest, -, ⟨-, -, he⟩ | ⟨hready, -, he⟩ | ⟨-, he⟩⟩
  · rw [he]; exact engineTurn_next_of_inv h
  · exact ⟨_, he⟩
  · rw [he]; exact engineTurn_next_of_inv (act_keeps_inv h.hostSide ((ready_withHost m s rest).trans hready))
  · rw [he]; exact engineTurn_next_of_inv h

end Sys2Proof.Machine
end

/-! ## The transfers on `s_in` and `m_out`, and the holds (spec/20_memory.md R86 to R88) -/

section
namespace Sys2Proof.Machine

/-! ### The host's transfers -/

/-- The engine's turn is no move of the host, and no port answers on it. -/
theorem engineTurn_keeps_host {s t : State} (h : engineTurn s = .next t) :
    t.host = s.host ∧ t.replies = s.replies := by
  unfold engineTurn at h
  split at h
  · cases h; exact ⟨rfl, rfl⟩
  split at h
  · cases h; exact ⟨rfl, rfl⟩
  · next i _ =>
    obtain ⟨-, -, -, -, -, -, hhost, hreplies, -⟩ := commandsLeaveTheHostsRegisters i s t h
    exact ⟨hhost, hreplies⟩
  · cases h; exact ⟨rfl, rfl⟩

/-- A move that can be made and leaves nothing to the engine is the whole step. -/
theorem step_of_ready {s : State} {m : Move} {rest : List Move} (hhost : s.host = m :: rest)
    (hready : m.ready s = true) (hleaves : m.leavesEngine = false) :
    step s = .next (m.act { s with host := rest }) := by
  simp [step, hhost, hready, hleaves]

/-- A move that cannot be made yet waits, and the step is the engine's. -/
theorem step_of_not_ready {s : State} {m : Move} {rest : List Move} (hhost : s.host = m :: rest)
    (hready : m.ready s = false) : step s = engineTurn s := by
  simp [step, hhost, hready]

/-- Outside reset a transfer on `s_in` can be made exactly when the FIFO has room and the stream is open. -/
theorem ready_send_iff {s : State} (b : Byte) (last : Bool) (hreset : s.inReset = false) :
    (Move.send b last).ready s = true ↔ s.inFifo.length < s.cfg.inDepth ∧ s.inClosed = false := by
  simp [Move.ready, sendReady, hreset]

/-- Outside reset a read on `m_out` can be made exactly when the output FIFO holds a byte. -/
theorem ready_recv_iff {s : State} (hreset : s.inReset = false) :
    Move.recv.ready s = true ↔ s.outFifo ≠ [] := by
  simp [Move.ready, recvReady, hreset]

/-- Settles O16, from when a transfer can be made and what a step with it does in either case. -/
theorem inputTransfer : Obligations.InputTransfer := by
  intro s b last rest hreset hhost
  constructor
  · intro hroom hopen
    rw [step_of_ready hhost ((ready_send_iff b last hreset).mpr ⟨hroom, hopen⟩) rfl]
    simp [Move.act, hreset, sendByte, hopen]
  · intro hblocked
    have hready : (Move.send b last).ready s = false := by
      rw [← Bool.not_eq_true, ready_send_iff b last hreset]
      rintro ⟨hroom, hopen⟩
      rcases hblocked with hfull | hclosed
      · exact absurd hroom (Nat.not_lt.mpr hfull)
      · exact absurd (hopen.symm.trans hclosed) nofun
    have hstep := step_of_not_ready hhost hready
    exact ⟨hstep, fun t ht => (engineTurn_keeps_host (hstep.symm.trans ht)).1⟩

/-- Settles O17, from when a read can be made and what a step with it does in either case. -/
theorem outputRead : Obligations.OutputRead := by
  intro s rest hreset hhost
  constructor
  · intro b tail hf
    rw [step_of_ready hhost ((ready_recv_iff hreset).mpr (by simp [hf])) rfl]
    simp [Move.act, recvByte, hf]
  · intro hempty t ht
    have hready : Move.recv.ready s = false := by
      rw [← Bool.not_eq_true, ready_recv_iff hreset]
      exact not_not_intro hempty
    exact engineTurn_keeps_host ((step_of_not_ready hhost hready).symm.trans ht)

/-! ### Holds -/

/-- Settles O19. A computation leaves the streams as it found them, so its InPop finds no byte and no end of the
input, and its OutPush finds no room. -/
theorem holdChangesNothing : Obligations.HoldChangesNothing := by
  intro i s t hbusy hempty hopen hfull h
  rcases clear_start_or i s with ⟨rfl, hp⟩ | hi
  · obtain rfl := exec_clear_next hp h
    exact .inr rfl
  obtain ⟨r, hr⟩ := Option.isSome_iff_exists.mp hbusy
  rw [exec_eq_engineStep, engineStep, accept_of_run hr] at h
  have hcomp := compute_computed (W := fun _ => True) hi (fun _ _ => trivial) fun _ _ _ _ _ => trivial
  rcases finishStep_next h with ⟨u, site, he, hpop⟩ | ⟨u, site, b, rest, he, hpush⟩ | ⟨u, -, rfl⟩ | ⟨u, c, -, rfl⟩
  · rw [he] at hcomp
    have hu : Computed (fun _ => True) s u := hcomp
    rcases hpop with ⟨b, rest, hbyte, -⟩ | ⟨-, hclosed, -⟩ | ⟨-, -, hhold⟩
    · exact absurd ((hu.inFifo.trans hempty).symm.trans hbyte) nofun
    · exact absurd ((hu.inClosed.trans hopen).symm.trans hclosed) nofun
    · exact .inl hhold
  · rw [he] at hcomp
    have hu : Computed (fun _ => True) s u := hcomp
    rcases hpush with ⟨hroom, -⟩ | ⟨-, hhold⟩
    · rw [hu.outFifo, hu.cfg] at hroom
      exact absurd hroom (Nat.not_lt.mpr hfull)
    · exact .inl hhold
  · exact .inr rfl
  · exact .inr rfl

end Sys2Proof.Machine
end

/-! ## The steps of the commands that load or push bytes, one by one
(spec/20_memory.md R84 to R86; spec/41_encoder.md R160, R175; spec/44_decoder.md R240 to R246;
spec/45_bitstream_unpacker.md R290) -/

section
namespace Sys2Proof.Machine

/-! ### Where a step arrives -/

/-- The step of command `i` from `s` ends as the request `r` says. -/
def Arrives (i : Instr) (s : State) (r : Request) : Prop := ∃ s0, exec i s = finishStep s0 r

theorem arrives_atStart {i : Instr} {s : State} {r : Request} (h : AtStart i s) (hphase : allowedIn i s.phase = true)
    (hr : bodyOf i { s with run := some { word := encode i, point := .start } } = r) : Arrives i s r :=
  ⟨_, hr ▸ exec_atStart h hphase⟩

theorem arrives_popped {i : Instr} {s : State} {site : PopSite} {b : Option Byte} {r : Request}
    (hi : isComposite i = false) (h : AtPoint i (.popped site b) s) (hr : afterPop site b s = r) : Arrives i s r := by
  refine ⟨s, ?_⟩
  rw [exec_eq_engineStep, engineStep_popped h, nextOf_of_not_composite hi, andThen_atEnd, hr]

section
variable {i : Instr} {s u : State}

/-- The InPop takes the head byte (R84). -/
theorem Arrives.byte {site : PopSite} {w : Word} {p : Point} {c : Byte} {rest : List Byte}
    (h : Arrives i s (.pop u site)) (hr : u.run = some { word := w, point := p }) (hf : u.inFifo = c :: rest) :
    exec i s = .next { u with
      inFifo := rest, inCount := u.inCount + 1, run := some { word := w, point := .popped site (some c) } } := by
  obtain ⟨s0, h⟩ := h
  rw [h, finishStep_pop_byte hf]
  simp [State.goto, hr]

/-- The InPop returns EOF at the end of the input (R84). -/
theorem Arrives.eof {site : PopSite} {w : Word} {p : Point} (h : Arrives i s (.pop u site))
    (hr : u.run = some { word := w, point := p }) (hf : u.inFifo = []) (hc : u.inClosed = true) :
    exec i s = .next { u with run := some { word := w, point := .popped site none } } := by
  obtain ⟨s0, h⟩ := h
  rw [h, finishStep_pop_eof hf hc]
  simp [State.goto, hr]

theorem Arrives.done (h : Arrives i s (.done u)) : exec i s = .next u.complete := h.elim fun _ => id

theorem Arrives.error {c : ErrCode} (h : Arrives i s (.error u c)) : exec i s = .next (u.raiseError c) :=
  h.elim fun _ => id

end

/-- Settles O36. The next byte to push is the request itself. -/
theorem pushingStepsAppendInOrder : Obligations.PushingStepsAppendInOrder := by
  intro i site b rest s _ hs
  have hstep : exec i s = finishStep s (.push s site b rest) := by
    rw [exec_eq_engineStep, engineStep_pushed hs, afterPush, emit_cons, andThen_push]
  have hrun : s.run = some { word := encode i, point := .pushed site (b :: rest) } := hs
  rw [hstep]
  constructor
  · intro hroom
    rw [finishStep_push hroom]
    simp [State.goto, hrun]
  · intro hfull
    exact finishStep_push_hold (Nat.not_lt.mpr hfull)

/-! ### ENC_LOAD (spec/41_encoder.md R160) -/

section
variable {s : State} {cs k : Nat} {b : Byte}

theorem encLoadStart_of_pos (h : 1 ≤ s.chunkSize.toNat) :
    encLoadStart s = .pop { s with freq := Table.zero 32, freqSpec := true, bitLen := 0#32, byteLen := 0#32 }
      (.load s.chunkSize.toNat 0) := if_pos h

theorem encLoadFinish_of_pos (h : 1 ≤ k) :
    encLoadFinish k s = .done { s with
      curLen := BitVec.ofNat 32 k, dictCount := BitVec.ofNat 32 (present s.freq).length, phase := .eLoaded } :=
  if_neg (Nat.ne_of_gt h)

/-- Byte `k` is stored and counted, and the loop goes on. -/
theorem encLoadGot_byte (h : k < s.cfg.maxChunk) :
    encLoadGot cs k (some b) s = encLoadLoop cs (k + 1) { s with
      chunkBuf := Memory.insert s.chunkBuf k b
      freq := Table.put s.freq b.toNat (Table.entry s.freq b.toNat + 1) } := by
  rw [encLoadGot, memWrite_ok.mpr ⟨h, rfl⟩]
  rfl

theorem encLoadGot_byte_of_lt (h : k < s.cfg.maxChunk) (hlt : k + 1 < cs) :
    encLoadGot cs k (some b) s = .pop { s with
      chunkBuf := Memory.insert s.chunkBuf k b
      freq := Table.put s.freq b.toNat (Table.entry s.freq b.toNat + 1) } (.load cs (k + 1)) :=
  (encLoadGot_byte h).trans (if_pos hlt)

theorem encLoadGot_byte_of_le (h : k < s.cfg.maxChunk) (hle : cs ≤ k + 1) :
    encLoadGot cs k (some b) s = encLoadFinish (k + 1) { s with
      chunkBuf := Memory.insert s.chunkBuf k b
      freq := Table.put s.freq b.toNat (Table.entry s.freq b.toNat + 1) } :=
  (encLoadGot_byte h).trans (if_neg (Nat.not_lt.mpr hle))

end

/-- Settles O25. ENC_LOAD arrives at its next InPop, or at its end. -/
theorem encLoadTakesEachByteAndCompletes : Obligations.EncLoadTakesEachByteAndCompletes := by
  refine ⟨fun s b rest hs hp hcs hf => ?_, fun s cs k b c rest hs hk hlt hf => ?_, fun s hs hp hcs hf hc => ?_,
    fun s cs k b hs hk hlt hf hc => ?_, fun s cs k b hs hk hle => ?_, fun s cs k hs hk => ?_, fun s cs hs => ?_⟩
  · exact (arrives_atStart hs (decide_eq_true hp) (encLoadStart_of_pos hcs)).byte rfl hf
  · exact (arrives_popped rfl hs (encLoadGot_byte_of_lt hk hlt)).byte hs hf
  · exact (arrives_atStart hs (decide_eq_true hp) (encLoadStart_of_pos hcs)).eof rfl hf hc
  · exact (arrives_popped rfl hs (encLoadGot_byte_of_lt hk hlt)).eof hs hf hc
  · exact (arrives_popped rfl hs
      ((encLoadGot_byte_of_le hk hle).trans (encLoadFinish_of_pos (Nat.succ_pos k)))).done
  · exact (arrives_popped rfl hs (encLoadFinish_of_pos hk)).done
  · exact (arrives_popped rfl hs rfl).done

/-! ### DEC_READ_COUNT (spec/44_decoder.md R240) -/

/-- The bytes read of a 32-bit field before its last one. -/
theorem length_lt_three_cases {got : List Byte} (h : got.length < 3) :
    got = [] ∨ (∃ b0, got = [b0]) ∨ ∃ b0 b1, got = [b0, b1] := by
  rcases got with _ | ⟨b0, _ | ⟨b1, _ | ⟨b2, got⟩⟩⟩
  case cons.cons.cons => simp only [List.length_cons] at h; omega
  all_goals simp

section
variable {s : State} {got : List Byte} {b : Byte}

/-- Before the fourth byte of a field the Body asks for the next one: `got` are the bytes before `b`. -/
theorem readCountGot_of_lt (h : got.length < 3) :
    readCountGot got (some b) s = .pop s (.count (got ++ [b])) := by
  rcases length_lt_three_cases h with rfl | ⟨b0, rfl⟩ | ⟨b0, b1, rfl⟩ <;> rfl

theorem readCountCheck_of_le {n : Word} (h : n.toNat ≤ 256) :
    readCountCheck n s = .done { s with dictCount := n, phase := .dEntries } := if_neg (Nat.not_lt.mpr h)

theorem readCountCheck_of_gt {n : Word} (h : 256 < n.toNat) :
    readCountCheck n s = .error { s with dictCount := n } .dictTooLarge := if_pos h

end

/-- Settles O43. DEC_READ_COUNT arrives at its next InPop, at its end, or at an error. -/
theorem decReadCountCompletes : Obligations.DecReadCountCompletes := by
  refine ⟨fun s b rest hs hp hf => ?_, fun s hs hp hf hc => ?_, fun s got b hs hg hf hc => ?_,
    fun s got rest b c hs hg hf => ?_, fun s b0 b1 b2 b3 hs hle => ?_, fun s b0 b1 b2 b3 hs hgt => ?_,
    fun s hs => ?_, fun s b got hs => ?_⟩
  · exact (arrives_atStart hs (decide_eq_true hp) rfl).byte rfl hf
  · exact (arrives_atStart hs (decide_eq_true hp) rfl).eof rfl hf hc
  · exact (arrives_popped rfl hs (readCountGot_of_lt hg)).eof hs hf hc
  · exact (arrives_popped rfl hs (readCountGot_of_lt hg)).byte hs hf
  · exact (arrives_popped rfl hs (readCountCheck_of_le hle)).done
  · exact (arrives_popped rfl hs (readCountCheck_of_gt hgt)).error
  · exact (arrives_popped rfl hs rfl).done
  · exact (arrives_popped rfl hs rfl).error

/-! ### DEC_READ_ENTRIES (spec/44_decoder.md R243 to R245) -/

/-- Masking to the low `L` bits is the remainder by 2^L (R17, R245). -/
theorem toNat_and_lowMask {L : Nat} (h : L ≤ 32) (v : Word) : (v &&& lowMask L).toNat = v.toNat % 2 ^ L := by
  have hpow : 2 ^ L ≤ 2 ^ 32 := Nat.pow_le_pow_right (by decide) h
  have hmask : (lowMask L).toNat = 2 ^ L - 1 := by
    rw [lowMask, BitVec.toNat_ofNat]
    exact Nat.mod_eq_of_lt (by omega)
  rw [BitVec.toNat_and, hmask, Nat.and_two_pow_sub_one_eq_mod]

theorem and_lowMask_eq {L : Nat} (h : L ≤ 32) (v : Word) :
    v &&& lowMask L = BitVec.ofNat 32 (v.toNat % 2 ^ L) := by
  rw [← toNat_and_lowMask h, BitVec.ofNat_toNat, BitVec.setWidth_eq]

section
variable {s : State} {i : Nat} {got : List Byte} {b sym L : Byte} {v : Word}

theorem entriesLoop_of_lt (h : i < s.dictCount.toNat) : entriesLoop i s = .pop s (.entry i []) := if_pos h

theorem entriesLoop_of_le (h : s.dictCount.toNat ≤ i) : entriesLoop i s = .done { s with phase := .dMeta } :=
  if_neg (Nat.not_lt.mpr h)

theorem entryGot_of_lt (h : got.length < 5) : entryGot i got (some b) s = .pop s (.entry i (got ++ [b])) := by
  rcases got with _ | ⟨b0, _ | ⟨b1, _ | ⟨b2, _ | ⟨b3, _ | ⟨b4, got⟩⟩⟩⟩⟩
  case cons.cons.cons.cons.cons => simp only [List.length_cons] at h; omega
  all_goals rfl

/-- An earlier entry has length `L` and the value `v` masked to its low `L` bits. -/
def Duplicate (i : Nat) (L : Byte) (v : Word) (s : State) : Prop :=
  ∃ j < i, (Table.entry s.dictLen j).toNat = L.toNat ∧ (Table.entry s.dictVal j).toNat = v.toNat % 2 ^ L.toNat

theorem dupEntry_iff (hL : L.toNat ≤ 32) :
    dupEntry i L.toNat (v &&& lowMask L.toNat) s = true ↔ Duplicate i L v s := by
  simp [dupEntry, Duplicate, ← BitVec.toNat_inj, toNat_and_lowMask hL]

theorem entryCheck_of_gt (hL : 32 < L.toNat) : entryCheck i sym L v s = .error s .badCodeLen := if_pos hL

theorem entryCheck_of_duplicate (hL : L.toNat ≤ 32) (hdup : Duplicate i L v s) :
    entryCheck i sym L v s = .error s .dupCodeword := by
  rw [entryCheck, if_neg (Nat.not_lt.mpr hL), if_pos ((dupEntry_iff hL).mpr hdup)]

/-- The entry is written, and the loop goes on. -/
theorem entryCheck_of_not_duplicate (hL : L.toNat ≤ 32) (hdup : ¬ Duplicate i L v s) :
    entryCheck i sym L v s =
      entriesLoop (i + 1) (writeEntry i sym L (BitVec.ofNat 32 (v.toNat % 2 ^ L.toNat)) s) := by
  rw [entryCheck, if_neg (Nat.not_lt.mpr hL), if_neg (mt (dupEntry_iff hL).mp hdup), and_lowMask_eq hL]

end

/-- Settles O44. DEC_READ_ENTRIES arrives at its next InPop, at its end, or at an error of `entryCheck`. -/
theorem decReadEntriesTakesEachByteAndCompletes : Obligations.DecReadEntriesTakesEachByteAndCompletes := by
  refine ⟨fun s b rest hs hp hn hf => ?_, fun s hs hp hn hf hc => ?_, fun s i got b hs hg hf hc => ?_,
    fun s i sym L v0 v1 v2 v3 hs hL hdup hi hf hc => ?_, fun s i got rest b c hs hg hf => ?_,
    fun s i sym L v0 v1 v2 v3 c rest hs hL hdup hi hf => ?_, fun s i sym L v0 v1 v2 v3 hs hL => ?_,
    fun s i sym L v0 v1 v2 v3 hs hL hdup => ?_, fun s i sym L v0 v1 v2 v3 hs hL hdup hi => ?_,
    fun s hs hp hn => ?_, fun s i got hs => ?_⟩
  · exact (arrives_atStart hs (decide_eq_true hp) (entriesLoop_of_lt hn)).byte rfl hf
  · exact (arrives_atStart hs (decide_eq_true hp) (entriesLoop_of_lt hn)).eof rfl hf hc
  · exact (arrives_popped rfl hs (entryGot_of_lt hg)).eof hs hf hc
  · exact (arrives_popped rfl hs ((entryCheck_of_not_duplicate hL hdup).trans (entriesLoop_of_lt hi))).eof hs hf hc
  · exact (arrives_popped rfl hs (entryGot_of_lt hg)).byte hs hf
  · exact (arrives_popped rfl hs ((entryCheck_of_not_duplicate hL hdup).trans (entriesLoop_of_lt hi))).byte hs hf
  · exact (arrives_popped rfl hs (entryCheck_of_gt hL)).error
  · exact (arrives_popped rfl hs (entryCheck_of_duplicate hL hdup)).error
  · exact (arrives_popped rfl hs ((entryCheck_of_not_duplicate hL hdup).trans (entriesLoop_of_le hi))).done
  · exact (arrives_atStart hs (decide_eq_true hp) (entriesLoop_of_le (by simp [hn]))).done
  · exact (arrives_popped rfl hs rfl).error

/-! ### DEC_READ_META (spec/44_decoder.md R246) -/

section
variable {s : State} {got : List Byte} {b : Byte}

theorem bitLenGot_of_lt (h : got.length < 3) : bitLenGot got (some b) s = .pop s (.bitLen (got ++ [b])) := by
  rcases length_lt_three_cases h with rfl | ⟨b0, rfl⟩ | ⟨b0, b1, rfl⟩ <;> rfl

theorem byteLenGot_of_lt (h : got.length < 3) : byteLenGot got (some b) s = .pop s (.byteLen (got ++ [b])) := by
  rcases length_lt_three_cases h with rfl | ⟨b0, rfl⟩ | ⟨b0, b1, rfl⟩ <;> rfl

theorem metaCheck_of_exceeds (h : 8 * s.byteLen.toNat < s.bitLen.toNat) : metaCheck s = .error s .bitlenExceeds :=
  if_pos h

theorem metaCheck_of_tooLarge (h : s.bitLen.toNat ≤ 8 * s.byteLen.toNat)
    (hsize : s.cfg.payloadBytes < s.byteLen.toNat) : metaCheck s = .error s .payloadTooLarge :=
  (if_neg (Nat.not_lt.mpr h)).trans (if_pos hsize)

theorem metaCheck_of_fits (h : s.bitLen.toNat ≤ 8 * s.byteLen.toNat)
    (hsize : s.byteLen.toNat ≤ s.cfg.payloadBytes) : metaCheck s = .done { s with phase := .dPayload } :=
  (if_neg (Nat.not_lt.mpr h)).trans (if_neg (Nat.not_lt.mpr hsize))

end

/-- Settles O45. DEC_READ_META arrives at its next InPop, at its end, or at an error of `metaCheck`. -/
theorem decReadMetaCompletes : Obligations.DecReadMetaCompletes := by
  refine ⟨fun s b rest hs hp hf => ?_, fun s hs hp hf hc => ?_, fun s got rest b c hs hg hf => ?_,
    fun s got b hs hg hf hc => ?_, fun s got rest b c hs hg hf => ?_, fun s got b hs hg hf hc => ?_,
    fun s b0 b1 b2 b3 c rest hs hf => ?_, fun s b0 b1 b2 b3 hs hf hc => ?_, fun s b0 b1 b2 b3 hs hbits => ?_,
    fun s b0 b1 b2 b3 hs hbits hsize => ?_, fun s b0 b1 b2 b3 hs hbits hsize => ?_, fun s got hs => ?_⟩
  · exact (arrives_atStart hs (decide_eq_true hp) rfl).byte rfl hf
  · exact (arrives_atStart hs (decide_eq_true hp) rfl).eof rfl hf hc
  · exact (arrives_popped rfl hs (bitLenGot_of_lt hg)).byte hs hf
  · exact (arrives_popped rfl hs (bitLenGot_of_lt hg)).eof hs hf hc
  · exact (arrives_popped rfl hs (byteLenGot_of_lt hg)).byte hs hf
  · exact (arrives_popped rfl hs (byteLenGot_of_lt hg)).eof hs hf hc
  · exact (arrives_popped rfl hs rfl).byte hs hf
  · exact (arrives_popped rfl hs rfl).eof hs hf hc
  · exact (arrives_popped rfl hs (metaCheck_of_exceeds hbits)).error
  · exact (arrives_popped rfl hs (metaCheck_of_tooLarge hbits hsize)).error
  · exact (arrives_popped rfl hs (metaCheck_of_fits hbits hsize)).done
  · rcases hs with hs | hs
    · exact (arrives_popped rfl hs rfl).error
    · exact (arrives_popped rfl hs rfl).error

/-! ### BU_READ_PAYLOAD (spec/45_bitstream_unpacker.md R290) -/

section
variable {s : State} {n : Nat} {b : Byte}

theorem payloadLoop_of_lt (h : n < s.byteLen.toNat) : payloadLoop n s = .pop s (.payload n) := if_pos h

theorem payloadLoop_of_le (h : s.byteLen.toNat ≤ n) : payloadLoop n s = .done { s with phase := .dDecode } :=
  if_neg (Nat.not_lt.mpr h)

/-- Byte `n` is stored, and the loop goes on. -/
theorem payloadGot_byte (h : n < s.cfg.payloadBytes) :
    payloadGot n (some b) s = payloadLoop (n + 1) { s with payloadBuf := Memory.insert s.payloadBuf n b } := by
  rw [payloadGot, memWrite_ok.mpr ⟨h, rfl⟩]
  rfl

end

/-- Settles O46. BU_READ_PAYLOAD arrives at its next InPop, at its end, or at TRUNCATED. -/
theorem buReadPayloadCompletes : Obligations.BuReadPayloadCompletes := by
  refine ⟨fun s b rest hs hp hn hf => ?_, fun s hs hp hn hf hc => ?_, fun s n b hs hn hlt hf hc => ?_,
    fun s n b c rest hs hn hlt hf => ?_, fun s n b hs hn hle => ?_, fun s hs hp hn => ?_, fun s n hs => ?_⟩
  · exact (arrives_atStart hs (decide_eq_true hp) (payloadLoop_of_lt hn)).byte rfl hf
  · exact (arrives_atStart hs (decide_eq_true hp) (payloadLoop_of_lt hn)).eof rfl hf hc
  · exact (arrives_popped rfl hs ((payloadGot_byte hn).trans (payloadLoop_of_lt hlt))).eof hs hf hc
  · exact (arrives_popped rfl hs ((payloadGot_byte hn).trans (payloadLoop_of_lt hlt))).byte hs hf
  · exact (arrives_popped rfl hs ((payloadGot_byte hn).trans (payloadLoop_of_le hle))).done
  · exact (arrives_atStart hs (decide_eq_true hp) (payloadLoop_of_le (by simp [hn]))).done
  · exact (arrives_popped rfl hs rfl).error

/-! ### The byte that a loading step stores (spec/20_memory.md R80) -/

/-- The stores that are no buffer. -/
def NotBuffer (x : Store) : Prop := x ≠ .chunk ∧ x ≠ .payload

/-- A computation that writes no buffer, in a step that does not hold, leaves every byte reading as it was. -/
theorem bufByte_of_framed {u s0 t : State} {D : State → Prop} {E : Phase → ErrCode → Prop} {r : Request}
    (hframe : r.Framed NotBuffer u D E) (hends : Ends s0 r t) (hne : t ≠ s0) (c : Buf) (j : Nat) :
    t.bufByte c j = u.bufByte c j := by
  have hkept (v : State) (hv : Frame NotBuffer u v) : v.bufByte c j = u.bufByte c j := by
    cases c with
    | chunk => simp only [State.bufByte, State.buf, hv.chunkBuf fun h => h.1 rfl, hv.epoch]
    | payload => simp only [State.bufByte, State.buf, hv.payloadBuf fun h => h.2 rfl, hv.epoch]
  cases hends with
  | @byte v => exact hkept v hframe
  | @eof v => exact hkept v hframe
  | @push v => exact hkept v hframe
  | @done v => exact hkept v hframe.1
  | @error v => exact hkept v hframe.1
  | popHold | pushHold => exact absurd rfl hne

/-- A step that stores one byte and then goes on with a computation that writes no buffer. -/
theorem bufByte_of_stored {s u t : State} {b : Buf} {n : Nat} {v : Byte} {D : State → Prop}
    {E : Phase → ErrCode → Prop} {r : Request} (hw : memWrite b n v s = .ok u) (hframe : r.Framed NotBuffer u D E)
    (hends : Ends s r t) (hne : t ≠ s) :
    t.bufByte b n = v ∧ ∀ (c : Buf) (j : Nat), c ≠ b ∨ j ≠ n → t.bufByte c j = s.bufByte c j := by
  have hafter := bufByte_of_framed hframe hends hne
  exact ⟨(hafter b n).trans (bufByte_memWrite_self hw),
    fun c j hcj => (hafter c j).trans (bufByte_memWrite_of_ne hw hcj)⟩

/-- Once a byte of the chunk is stored, a loading command writes no buffer until its next stream operation. -/
theorem framed_encLoadLoop_next {i : Instr} (hi : i = .encLoad ∨ i = .encChunk ∨ i = .encAll) (cs k : Nat)
    (s : State) :
    ((encLoadLoop cs k s).andThen (nextOf i .load)).Framed NotBuffer s anyEnd
      fun p c => p = .eTree ∧ c = .codeTooLong := by
  have hload := framed_encLoadLoop (W := NotBuffer) cs k s
  have hafter : ((encLoadLoop cs k s).andThen afterLoad).Framed NotBuffer s anyEnd
      fun p c => p = .eTree ∧ c = .codeTooLong :=
    (hload.of_noError fun _ => id).andThen fun u hu hend =>
      .after (framed_afterLoad ⟨nofun, nofun⟩ u) hu hend.1
  rcases hi with rfl | rfl | rfl
  · rw [nextOf, andThen_atEnd]
    exact hload.of_noError fun _ _ => trivial
  · exact hafter
  · exact hafter

/-- Settles O26. The MemWrite of the step stores the byte, and what follows it writes no buffer. -/
theorem loadStepsStoreOneByte : Obligations.LoadStepsStoreOneByte := by
  refine ⟨fun i s t cs k b hi hs h hne => ?_, fun s t n b hs h hne => ?_⟩
  · rw [exec_eq_engineStep, engineStep_popped hs, afterPop, encLoadGot] at h
    cases hw : memWrite .chunk k b s with
    | error f => simp [hw] at h
    | ok u =>
      rw [hw] at h
      have hcounted : Frame NotBuffer u
          { u with freq := Table.put u.freq b.toNat (Table.entry u.freq b.toNat + 1) } :=
        { freq := absurd ⟨nofun, nofun⟩ }
      exact bufByte_of_stored hw ((framed_encLoadLoop_next hi cs (k + 1) _).after hcounted rfl)
        (ends_of_finishStep h) hne
  · rw [exec_eq_engineStep, engineStep_popped hs, nextOf, andThen_atEnd, afterPop, payloadGot] at h
    cases hw : memWrite .payload n b s with
    | error f => simp [hw] at h
    | ok u =>
      rw [hw] at h
      exact bufByte_of_stored hw (framed_payloadLoop (n + 1) u) (ends_of_finishStep h) hne

end Sys2Proof.Machine
end

/-! ## The packing of a bit string into bytes (spec/30_encoding.md R123, spec/43_bit_packer.md R220) -/

section
namespace Sys2Proof.Machine

/-! ### The bits of bytes -/

/-- The eight bits of a byte, bit 7 first (R90). -/
def bitsOfByte (b : Byte) : Bits := bitsOf 8 (b.setWidth 32)

@[simp] theorem bitsOfByte_length (b : Byte) : (bitsOfByte b).length = 8 := bitsOf_length 8 _

theorem getElem_bitsOfByte (b : Byte) {j : Nat} (h : j < (bitsOfByte b).length) :
    (bitsOfByte b)[j] = byteBit b j := by
  have hj : j < 8 := by simpa using h
  simp [bitsOfByte, bitsOf, byteBit, BitVec.getLsbD_setWidth, Nat.mod_eq_of_lt hj]
  omega

/-- Eight bits are the bits of the byte of their value. -/
theorem bitsOfByte_bitsVal {p : Bits} (h : p.length = 8) : bitsOfByte (BitVec.ofNat 8 (bitsVal p)) = p := by
  have hval : bitsVal p < 2 ^ 8 := h ▸ bitsVal_lt p
  have hword : (BitVec.ofNat 8 (bitsVal p)).setWidth 32 = BitVec.ofNat 32 (bitsVal p) := by
    apply BitVec.eq_of_toNat_eq
    simp only [BitVec.toNat_setWidth, BitVec.toNat_ofNat, Nat.mod_eq_of_lt hval]
  rw [bitsOfByte, hword, ← h, bitsOf_bitsVal p (by omega)]

theorem bitsOfBytes_length (P : List Byte) : (P.flatMap bitsOfByte).length = 8 * P.length := by
  simp [List.length_flatMap, Nat.mul_comm]

/-- Bit `j` of a byte sequence is bit 7 − (j mod 8) of its byte j div 8 (R123). -/
theorem getD_bitsOfBytes (P : List Byte) (j : Nat) (h : j < 8 * P.length) :
    (P.flatMap bitsOfByte).getD j false = byteBit (P.getD (j / 8) 0#8) j := by
  induction P generalizing j with
  | nil => simp at h
  | cons b P ih =>
    rw [List.flatMap_cons]
    rcases Nat.lt_or_ge j 8 with hj | hj
    · rw [List.getD_append _ _ _ _ (by simpa using hj), List.getD_eq_getElem _ _ (by simpa using hj),
        getElem_bitsOfByte, Nat.div_eq_of_lt hj]
      rfl
    · obtain ⟨i, rfl⟩ := Nat.exists_eq_add_of_le hj
      have hi : i < 8 * P.length := by simp only [List.length_cons] at h; omega
      rw [List.getD_append_right _ _ _ _ (by simp), bitsOfByte_length, Nat.add_sub_cancel_left, ih i hi,
        show (8 + i) / 8 = i / 8 + 1 by omega, List.getD_cons_succ]
      simp [byteBit]

/-- Bytes whose bits are the bit string and fewer than eight 0 bits are its packing. -/
theorem packed_of_bits {B : Bits} {P : List Byte} {pad : Nat} (hpad : pad < 8)
    (h : P.flatMap bitsOfByte = B ++ List.replicate pad false) : Packed B P := by
  have hlen : 8 * P.length = B.length + pad := by
    rw [← bitsOfBytes_length, h, List.length_append, List.length_replicate]
  refine ⟨by rw [ceil8]; omega, fun j hj => ?_⟩
  rw [← getD_bitsOfBytes P j hj, h]
  rcases Nat.lt_or_ge j B.length with hB | hB
  · rw [List.getD_append _ _ _ _ hB]
  · rw [List.getD_append_right _ _ _ _ hB, List.getD_eq_default _ _ hB]
    simp

/-! ### R220's loop -/

/-- The packer has taken the bit string `B`: the bytes it has pushed hold the leading bits, `acc` the last `na` ones. -/
def Packer.Holds (p : Packer) (B : Bits) : Prop :=
  ∃ tail : Bits, B = p.out.flatMap bitsOfByte ++ tail ∧ tail.length = p.na ∧ p.na < 8 ∧ p.acc = bitsVal tail

theorem packBit_holds {p : Packer} {B : Bits} (h : p.Holds B) (bit : Bool) : (packBit p bit).Holds (B ++ [bit]) := by
  obtain ⟨tail, rfl, hlen, hna, hacc⟩ := h
  unfold packBit
  rw [hacc, ← bitsVal_append_single]
  split
  · next hfull =>
    refine ⟨[], ?_, rfl, Nat.zero_lt_succ 7, rfl⟩
    simp [bitsOfByte_bitsVal (p := tail ++ [bit]) (by simp [hlen, hfull])]
  · exact ⟨tail ++ [bit], by simp, by simp [hlen], by simp only; omega, rfl⟩

theorem foldl_packBit_holds {p : Packer} {B : Bits} (h : p.Holds B) (bits : Bits) :
    (bits.foldl packBit p).Holds (B ++ bits) := by
  induction bits generalizing p B with
  | nil => simpa using h
  | cons bit bits ih => simpa using ih (packBit_holds h bit)

theorem packSymbols_holds (codeLen : Table (BitVec 6)) (codeVal : Table Word) (chunk : List Byte) :
    (packSymbols codeLen codeVal chunk).Holds (chunk.flatMap (codewordOf codeLen codeVal)) := by
  rw [packSymbols, ← List.foldl_flatMap]
  exact foldl_packBit_holds (B := []) ⟨[], rfl, rfl, by decide, rfl⟩ _

theorem bitsVal_append_replicate_false (s : Bits) (n : Nat) :
    bitsVal (s ++ List.replicate n false) = bitsVal s * 2 ^ n := by
  induction n with
  | zero => simp
  | succ n ih =>
    rw [List.replicate_succ', ← List.append_assoc, bitsVal_append_single, ih, Nat.pow_succ]
    simp only [Bool.toNat_false]
    ring

/-- Settles O38. What the loop holds at its end, with the last byte padded with 0 bits. -/
theorem payloadIsThePackingOfTheCodewords : Obligations.PayloadIsThePackingOfTheCodewords := by
  intro codeLen codeVal chunk
  obtain ⟨tail, hbits, hlen, hna, hacc⟩ := packSymbols_holds codeLen codeVal chunk
  rw [packPayload]
  split
  · next hpos =>
    refine packed_of_bits (pad := 8 - tail.length) (by omega) ?_
    have hlast : bitsOfByte (BitVec.ofNat 8 (bitsVal tail * 2 ^ (8 - tail.length))) =
        tail ++ List.replicate (8 - tail.length) false := by
      rw [← bitsVal_append_replicate_false]
      exact bitsOfByte_bitsVal (by simp; omega)
    rw [hbits, hacc, ← hlen, List.flatMap_append, List.flatMap_singleton, hlast, List.append_assoc]
  · next hzero =>
    have htail : tail = [] := List.eq_nil_of_length_eq_zero (by omega)
    exact packed_of_bits (pad := 0) (by decide) (by simp [hbits, htail])

end Sys2Proof.Machine
end

/-! ## The record of a chunk (spec/30_encoding.md R120 to R123; spec/41_encoder.md R161, R170, R173)

What CT_GEN, ENC_EMIT_DICT and BP_PACK compute from the chunk's frequencies is the record that its tree gives. -/

section
namespace Sys2Proof.Machine

/-! ### The frequencies of a chunk (R161, R173) -/

theorem freqOf_append_single (chunk : List Byte) (b : Byte) :
    freqOf (chunk ++ [b]) = Table.put (freqOf chunk) b.toNat (Table.entry (freqOf chunk) b.toNat + 1) := by
  simp [freqOf]

/-- FREQ[b] is the number of times `b` occurs in the chunk, as a word. -/
theorem entry_freqOf (chunk : List Byte) (b : Byte) :
    Table.entry (freqOf chunk) b.toNat = BitVec.ofNat 32 (chunk.count b) := by
  induction chunk using List.reverseRecOn with
  | nil => exact Table.entry_zero 32 _
  | append_singleton chunk c ih =>
    rw [freqOf_append_single, List.count_append]
    by_cases hc : c = b
    · subst hc
      rw [Table.entry_put_self _ _ c.isLt, ih, List.count_singleton_self, BitVec.ofNat_add]
      rfl
    · have hne : b.toNat ≠ c.toNat := fun h => hc (BitVec.eq_of_toNat_eq h.symm)
      rw [Table.entry_put_of_ne _ _ hne, ih]
      simp [hc]

theorem toNat_entry_freqOf {chunk : List Byte} (h : chunk.length < 2 ^ 32) (b : Byte) :
    (Table.entry (freqOf chunk) b.toNat).toNat = chunk.count b := by
  rw [entry_freqOf, BitVec.toNat_ofNat, Nat.mod_eq_of_lt (List.count_le_length.trans_lt h)]

/-- A symbol's number is below 256. -/
theorem toNat_ofNat_symbol {i : Nat} (h : i < 256) : (BitVec.ofNat 8 i).toNat = i :=
  (BitVec.toNat_ofNat _ _).trans (Nat.mod_eq_of_lt h)

/-- A sum over the symbols of a chunk, by how often each symbol occurs. -/
theorem sum_count_mul (f : Nat → Nat) (chunk : List Byte) :
    ((List.range 256).map fun i => chunk.count (BitVec.ofNat 8 i) * f i).sum =
      (chunk.map fun b => f b.toNat).sum := by
  rw [← List.sum_toFinset _ List.nodup_range, List.toFinset_range]
  induction chunk with
  | nil => simp
  | cons b chunk ih =>
    have hone : ∑ i ∈ Finset.range 256, (if b = BitVec.ofNat 8 i then 1 else 0) * f i = f b.toNat := by
      have hb : ∀ i ∈ Finset.range 256, (if b = BitVec.ofNat 8 i then 1 else 0) * f i =
          if b.toNat = i then f i else 0 := by
        intro i hi
        simp only [← BitVec.toNat_inj, toNat_ofNat_symbol (Finset.mem_range.mp hi), ite_mul, one_mul, zero_mul]
      rw [Finset.sum_congr rfl hb, Finset.sum_ite_eq, if_pos (Finset.mem_range.mpr b.isLt)]
    simp only [List.count_cons, beq_iff_eq, Nat.add_mul, Finset.sum_add_distrib, ih, hone, List.map_cons,
      List.sum_cons]
    exact Nat.add_comm _ _

/-- The payload bit length is the length of the concatenated codewords, for any code table (R173). -/
theorem payloadBits_freqOf {chunk : List Byte} (h : chunk.length < 2 ^ 32) (codeLen : Table (BitVec 6))
    (codeVal : Table Word) :
    payloadBits (freqOf chunk) codeLen = (chunk.flatMap (codewordOf codeLen codeVal)).length := by
  have hcount : ∀ i ∈ List.range 256, (Table.entry (freqOf chunk) i).toNat = chunk.count (BitVec.ofNat 8 i) := by
    intro i hi
    rw [← toNat_entry_freqOf h, toNat_ofNat_symbol (List.mem_range.mp hi)]
  rw [payloadBits_eq, List.map_congr_left fun i hi => by rw [hcount i hi],
    sum_count_mul (fun i => (Table.entry codeLen i).toNat), List.length_flatMap]
  simp [codewordOf]

/-! ### The symbols of the tree (spec/42_tree_builder.md R200 to R205) -/

/-- The symbols of the leaves below a node, from left to right. -/
def Tree.symbols (t : Tree) : List Byte := (t.paths []).map Prod.fst

/-- The path to a node is no part of the symbols below it. -/
theorem Tree.map_fst_paths (t : Tree) (p q : Bits) : (t.paths p).map Prod.fst = (t.paths q).map Prod.fst := by
  induction t generalizing p q with
  | leaf sym f k => rfl
  | single c f k ih => exact ih _ _
  | node l r f k ihl ihr =>
    simp only [Tree.paths, List.map_append]
    rw [ihl _ (q ++ [false]), ihr _ (q ++ [true])]

@[simp] theorem Tree.symbols_leaf (sym : Byte) (f k : Nat) : (Tree.leaf sym f k).symbols = [sym] := rfl

@[simp] theorem Tree.symbols_single (c : Tree) (f k : Nat) : (Tree.single c f k).symbols = c.symbols :=
  c.map_fst_paths _ _

@[simp] theorem Tree.symbols_node (l r : Tree) (f k : Nat) :
    (Tree.node l r f k).symbols = l.symbols ++ r.symbols := by
  simp only [Tree.symbols, Tree.paths, List.map_append]
  rw [l.map_fst_paths _ [], r.map_fst_paths _ []]

/-- PopMin takes one node out and leaves the others. -/
theorem popMin_perm (x : Tree) (q : List Tree) : ((popMin x q).1 :: (popMin x q).2).Perm (x :: q) := by
  induction q generalizing x with
  | nil => exact .refl _
  | cons y q ih =>
    unfold popMin
    split
    · exact .refl _
    · exact (List.Perm.swap _ _ _).trans ((ih y).cons x)

/-- Merging moves the leaves about, and neither adds one nor drops one. -/
theorem mergeAll_symbols_perm (turns m : Nat) (q : List Tree) :
    ((mergeAll turns m q).flatMap Tree.symbols).Perm (q.flatMap Tree.symbols) := by
  induction turns generalizing m q with
  | zero => exact .refl _
  | succ turns ih =>
    rcases q with _ | ⟨a, _ | ⟨b, q⟩⟩
    · exact .refl _
    · exact .refl _
    unfold mergeAll
    split
    · exact .refl _
    · next x c q1 hx =>
      have hfirst : (x :: c :: q1).Perm (a :: b :: q) := by simpa [hx] using popMin_perm a (b :: q)
      have hsecond := popMin_perm c q1
      refine (ih _ _).trans (List.Perm.trans ?_ (hfirst.flatMap_right Tree.symbols))
      generalize popMin c q1 = y at hsecond
      have hmerged : ((mergeNode m x y.1 :: y.2).flatMap Tree.symbols).Perm
          (x.symbols ++ (y.1 :: y.2).flatMap Tree.symbols) := by
        simp only [mergeNode, List.flatMap_cons, Tree.symbols_node]
        rw [← List.append_assoc]
        exact List.perm_append_comm.append_right _
      exact hmerged.trans ((hsecond.flatMap_right _).append_left _)

/-- The queue that TB_BUILD leaves holds the symbols of the chunk, each in one leaf. -/
theorem buildQueue_symbols_perm (freq : Table Word) :
    ((buildQueue freq).flatMap Tree.symbols).Perm ((present freq).map (BitVec.ofNat 8)) := by
  unfold buildQueue
  split
  · next s h => simp [h, leafOf]
  · refine (mergeAll_symbols_perm _ _ _).trans (List.Perm.of_eq ?_)
    simp [List.flatMap_map, leafOf, ← List.map_eq_flatMap]

/-- No symbol has two leaves (R205). -/
theorem leavesOfChunk_nodup (chunk : List Byte) : ((leavesOfChunk chunk).map Prod.fst).Nodup := by
  have hpresent : ((present (freqOf chunk)).map (BitVec.ofNat 8)).Nodup := by
    refine List.Nodup.map_on (fun i hi j hj h => ?_) ((present_sorted _).imp Nat.ne_of_lt)
    rw [← toNat_ofNat_symbol (mem_present.mp hi).1, h, toNat_ofNat_symbol (mem_present.mp hj).1]
  have hqueue := (buildQueue_symbols_perm (freqOf chunk)).nodup_iff.mpr hpresent
  unfold leavesOfChunk
  cases hq : buildQueue (freqOf chunk) with
  | nil => simp [leavesOf]
  | cons t q =>
    rw [hq, List.flatMap_cons] at hqueue
    exact hqueue.of_append_left

/-! ### The CODE tables of a tree (R170, R171) -/

/-- The path of a symbol's leaf; the empty one where it has none. -/
def pathOf (leaves : List (Byte × Bits)) (b : Byte) : Bits := (leaves.lookup b).getD []

section
variable {leaves : List (Byte × Bits)}

theorem pathOf_cases (leaves : List (Byte × Bits)) (b : Byte) :
    (b, pathOf leaves b) ∈ leaves ∨ (b ∉ leaves.map Prod.fst ∧ pathOf leaves b = []) := by
  cases h : leaves.lookup b with
  | none =>
    refine .inr ⟨fun hb => ?_, by simp [pathOf, h]⟩
    obtain ⟨l, hl, rfl⟩ := List.mem_map.mp hb
    simpa using List.lookup_eq_none_iff.mp h l hl
  | some p =>
    obtain ⟨l1, l2, rfl, -⟩ := List.lookup_eq_some_iff.mp h
    exact .inl (by simp [pathOf, h])

theorem pathOf_length_le (h : ∀ l ∈ leaves, l.2.length ≤ 32) (b : Byte) : (pathOf leaves b).length ≤ 32 := by
  rcases pathOf_cases leaves b with hb | ⟨-, hb⟩
  · exact h _ hb
  · simp [hb]

/-- Where no symbol has two leaves, CODE_LEN holds the lengths of the paths. -/
theorem entry_codeLenOf (hnd : (leaves.map Prod.fst).Nodup) (b : Byte) :
    Table.entry (codeLenOf leaves) b.toNat = BitVec.ofNat 6 (pathOf leaves b).length := by
  rcases pathOf_cases leaves b with hb | ⟨hb, hpath⟩
  · exact entry_foldl_put_of_mem (fun p => BitVec.ofNat 6 p.length) _ hnd hb
  · rw [hpath]
    exact (entry_foldl_put_of_notMem (fun p => BitVec.ofNat 6 p.length) _ hb).trans (Table.entry_zero 6 _)

/-- Where no symbol has two leaves, CODE_VAL holds the values of the paths. -/
theorem entry_codeValOf (hnd : (leaves.map Prod.fst).Nodup) (b : Byte) :
    Table.entry (codeValOf leaves) b.toNat = BitVec.ofNat 32 (bitsVal (pathOf leaves b)) := by
  rcases pathOf_cases leaves b with hb | ⟨hb, hpath⟩
  · exact entry_foldl_put_of_mem (fun p => BitVec.ofNat 32 (bitsVal p)) _ hnd hb
  · rw [hpath]
    exact (entry_foldl_put_of_notMem (fun p => BitVec.ofNat 32 (bitsVal p)) _ hb).trans (Table.entry_zero 32 _)

/-- The codeword of a symbol is its leaf's path, where no leaf is deeper than 32. -/
theorem codewordOf_leaves (hnd : (leaves.map Prod.fst).Nodup) (h : ∀ l ∈ leaves, l.2.length ≤ 32) (b : Byte) :
    codewordOf (codeLenOf leaves) (codeValOf leaves) b = pathOf leaves b := by
  have hlen := pathOf_length_le h b
  rw [codewordOf, entry_codeLenOf hnd, entry_codeValOf hnd, BitVec.toNat_ofNat,
    Nat.mod_eq_of_lt (Nat.lt_of_le_of_lt hlen (by decide)), bitsOf_bitsVal _ hlen]

/-- The dictionary entry that ENC_EMIT_DICT pushes for a symbol is the one of R121. -/
theorem dictEntry_leaves (hnd : (leaves.map Prod.fst).Nodup) (h : ∀ l ∈ leaves, l.2.length ≤ 32) {sym : Nat}
    (hsym : sym < 256) :
    dictEntry (codeLenOf leaves) (codeValOf leaves) sym = entryBytes sym (pathOf leaves (BitVec.ofNat 8 sym)) := by
  have hlen := pathOf_length_le h (BitVec.ofNat 8 sym)
  have hlenEntry := entry_codeLenOf hnd (BitVec.ofNat 8 sym)
  have hvalEntry := entry_codeValOf hnd (BitVec.ofNat 8 sym)
  rw [toNat_ofNat_symbol hsym] at hlenEntry hvalEntry
  have hwidth : (BitVec.ofNat 6 (pathOf leaves (BitVec.ofNat 8 sym)).length).setWidth 8 =
      BitVec.ofNat 8 (pathOf leaves (BitVec.ofNat 8 sym)).length := by
    apply BitVec.eq_of_toNat_eq
    simp only [BitVec.toNat_setWidth, BitVec.toNat_ofNat]
    omega
  rw [dictEntry, entryBytes, hlenEntry, hvalEntry, hwidth]

end

/-! ### What the commands of ENC_CHUNK push for a chunk (R120, R175, R220) -/

/-- The code table that CT_GEN leaves for a chunk. -/
def chunkCodeLen (chunk : List Byte) : Table (BitVec 6) := codeLenOf (leavesOfChunk chunk)

/-- The codeword values that go with `chunkCodeLen`. -/
def chunkCodeVal (chunk : List Byte) : Table Word := codeValOf (leavesOfChunk chunk)

/-- BIT_LEN after CT_GEN. -/
def chunkBitLen (chunk : List Byte) : Word := BitVec.ofNat 32 (payloadBits (freqOf chunk) (chunkCodeLen chunk))

/-- BYTE_LEN after CT_GEN. -/
def chunkByteLen (chunk : List Byte) : Word := BitVec.ofNat 32 (ceil8 (chunkBitLen chunk).toNat)

/-- The bytes that ENC_EMIT_DICT pushes. -/
def chunkDict (chunk : List Byte) : List Byte :=
  be32 (BitVec.ofNat 32 (present (freqOf chunk)).length) ++
    (present (freqOf chunk)).flatMap (dictEntry (chunkCodeLen chunk) (chunkCodeVal chunk))

/-- The bytes that BP_PACK pushes. -/
def chunkPack (chunk : List Byte) : List Byte :=
  be32 (chunkBitLen chunk) ++ be32 (chunkByteLen chunk) ++
    packPayload (chunkCodeLen chunk) (chunkCodeVal chunk) chunk

section
variable {chunk : List Byte}

theorem flatMap_codewordOf_chunk (h : HasRecord chunk) :
    chunk.flatMap (codewordOf (chunkCodeLen chunk) (chunkCodeVal chunk)) = bitsOfChunk chunk :=
  List.flatMap_congr fun b _ => codewordOf_leaves (leavesOfChunk_nodup chunk) h b

/-- The payload is the packing of the chunk's bit string (R221). -/
theorem packed_chunk (h : HasRecord chunk) :
    Packed (bitsOfChunk chunk) (packPayload (chunkCodeLen chunk) (chunkCodeVal chunk) chunk) :=
  flatMap_codewordOf_chunk h ▸ payloadIsThePackingOfTheCodewords _ _ chunk

theorem bitsOfChunk_length_le (h : HasRecord chunk) : (bitsOfChunk chunk).length ≤ 32 * chunk.length := by
  rw [bitsOfChunk, List.length_flatMap, Nat.mul_comm, ← smul_eq_mul]
  refine (List.sum_le_card_nsmul _ 32 fun n hn => ?_).trans_eq (by rw [List.length_map])
  obtain ⟨b, -, rfl⟩ := List.mem_map.mp hn
  exact pathOf_length_le h b

/-- BIT_LEN is the length of the chunk's bit string, which 32 bits hold for every chunk a buffer holds (R11). -/
theorem chunkBitLen_eq (h : HasRecord chunk) (hsize : chunk.length < 2 ^ 27) :
    chunkBitLen chunk = BitVec.ofNat 32 (bitsOfChunk chunk).length ∧
      (chunkBitLen chunk).toNat = (bitsOfChunk chunk).length := by
  have hbits := bitsOfChunk_length_le h
  have heq : chunkBitLen chunk = BitVec.ofNat 32 (bitsOfChunk chunk).length := by
    rw [chunkBitLen, payloadBits_freqOf (by omega), flatMap_codewordOf_chunk h]
  exact ⟨heq, by rw [heq, BitVec.toNat_ofNat, Nat.mod_eq_of_lt (by omega)]⟩

/-- The bytes pushed for a chunk are its record. -/
theorem isRecord_chunk (h : HasRecord chunk) (hsize : chunk.length < 2 ^ 27) :
    IsRecord chunk (chunkDict chunk ++ chunkPack chunk) := by
  obtain ⟨hbits, hbitsNat⟩ := chunkBitLen_eq h hsize
  have hdict : (present (freqOf chunk)).flatMap (dictEntry (chunkCodeLen chunk) (chunkCodeVal chunk)) =
      (present (freqOf chunk)).flatMap fun sym =>
        entryBytes sym (pathOf (leavesOfChunk chunk) (BitVec.ofNat 8 sym)) :=
    List.flatMap_congr fun sym hsym => dictEntry_leaves (leavesOfChunk_nodup chunk) h (mem_present.mp hsym).1
  refine ⟨_, packed_chunk h, ?_⟩
  rw [chunkDict, chunkPack, hdict, chunkByteLen, hbitsNat, ← (packed_chunk h).1, hbits]
  simp only [List.append_assoc, pathOf]

/-- A record's dictionary has a count and at most 256 entries of six bytes. -/
theorem chunkDict_length_le (chunk : List Byte) : (chunkDict chunk).length ≤ 1540 := by
  have hentry : ∀ sym, (dictEntry (chunkCodeLen chunk) (chunkCodeVal chunk) sym).length = 6 := fun _ => rfl
  have hpresent := present_length_le (freqOf chunk)
  simp only [chunkDict, List.length_append, be32_length, List.length_flatMap, hentry, List.map_const',
    List.sum_replicate, smul_eq_mul]
  omega

theorem chunkPack_length_le (h : HasRecord chunk) : (chunkPack chunk).length ≤ 8 + 4 * chunk.length := by
  have hbits := bitsOfChunk_length_le h
  have hbytes := (packed_chunk h).1
  simp only [ceil8] at hbytes
  simp only [chunkPack, List.length_append, be32_length]
  omega

end

end Sys2Proof.Machine
end

/-! ## Whole runs of a command (spec/40_control.md R150 to R153; spec/41_encoder.md R160, R180) -/

section
namespace Sys2Proof.Machine

/-! ### Runs of the engine alone -/

/-- The block runs command `i`, and every step is the engine's: the host has no move left. -/
structure Engaged (i : Instr) (s : State) : Prop where
  run     : ∃ p, AtPoint i p s
  host    : s.host = []
  inReset : s.inReset = false

theorem run_add (m n : Nat) (s : State) {t : State} (h : Host.Core.run Sys2Proof.core m s = .next t) :
    Host.Core.run Sys2Proof.core (m + n) s = Host.Core.run Sys2Proof.core n t := by
  induction m generalizing s with
  | zero => cases h; rw [Nat.zero_add]
  | succ m ih =>
    rw [Nat.succ_add]
    cases hu : Sys2Proof.core.step s with
    | next u =>
      simp only [Host.Core.run, hu] at h ⊢
      exact ih u h
    | fault f => simp [Host.Core.run, hu] at h
    | refused x => simp [Host.Core.run, hu] at h

theorem step_of_engaged {i : Instr} {s : State} (h : Engaged i s) : step s = exec i s := by
  obtain ⟨p, hp⟩ := h.run
  rw [step, h.host]
  exact engineTurn_ok hp (decode_encode i) h.inReset

theorem run_one_of_engaged {i : Instr} {s t : State} (h : Engaged i s) (ht : exec i s = .next t) :
    Host.Core.run Sys2Proof.core 1 s = .next t := by
  have hstep : Sys2Proof.core.step s = .next t := (step_of_engaged h).trans ht
  simp only [Host.Core.run, hstep]

/-- The last step of a run of `n + 1`. -/
theorem run_succ {i : Instr} {n : Nat} {s u t : State} (hu : Host.Core.run Sys2Proof.core n s = .next u)
    (hi : Engaged i u) (ht : exec i u = .next t) : Host.Core.run Sys2Proof.core (n + 1) s = .next t :=
  (run_add n 1 s hu).trans (run_one_of_engaged hi ht)

/-- An idle block whose host has no move left stays as it is. -/
theorem run_of_idle {s : State} (hrun : s.run = none) (hhost : s.host = []) (n : Nat) :
    Host.Core.run Sys2Proof.core n s = .next s := by
  have hstep : Sys2Proof.core.step s = .next s := by
    show step s = .next s
    rw [step, hhost]
    exact engineTurn_idle hrun
  induction n with
  | zero => rfl
  | succ n ih => simp only [Host.Core.run, hstep, ih]

/-- A run that has come to an idle block may be made longer. -/
theorem run_of_le {m n : Nat} {s t : State} (h : Host.Core.run Sys2Proof.core m s = .next t) (hrun : t.run = none)
    (hhost : t.host = []) (hle : m ≤ n) : Host.Core.run Sys2Proof.core n s = .next t := by
  obtain ⟨k, rfl⟩ := Nat.exists_eq_add_of_le hle
  rw [run_add m k s h, run_of_idle hrun hhost]

/-! ### Where a step of any command arrives -/

theorem arrives_afterPop {i : Instr} {s : State} {site : PopSite} {b : Option Byte} (h : AtPoint i (.popped site b) s) :
    Arrives i s ((afterPop site b s).andThen (nextOf i site.body)) :=
  ⟨s, by rw [exec_eq_engineStep, engineStep_popped h]⟩

theorem arrives_afterPush {i : Instr} {s : State} {site : PushSite} {rest : List Byte}
    (h : AtPoint i (.pushed site rest) s) :
    Arrives i s ((afterPush site rest s).andThen (nextOf i site.body)) :=
  ⟨s, by rw [exec_eq_engineStep, engineStep_pushed h]⟩

/-- The OutPush appends its byte where there is room (R85). -/
theorem Arrives.push {i : Instr} {s u : State} {site : PushSite} {p : Point} {b : Byte} {rest : List Byte}
    (h : Arrives i s (.push u site b rest)) (hr : AtPoint i p u) (hroom : u.outFifo.length < u.cfg.outDepth) :
    exec i s = .next { u with
      outFifo := u.outFifo ++ [b], outCount := u.outCount + 1
      run := some { word := encode i, point := .pushed site rest } } := by
  obtain ⟨s0, h⟩ := h
  rw [h, finishStep_push hroom]
  simp [State.goto, show u.run = some { word := encode i, point := p } from hr]

/-! ### Pushing a list of bytes (R175, R220, R250) -/

/-- `u` after command `i` has pushed the bytes `bs`, with `rest` still to push. -/
def State.emitted (u : State) (i : Instr) (site : PushSite) (bs rest : List Byte) : State :=
  { u with
    outFifo := u.outFifo ++ bs, outCount := u.outCount + BitVec.ofNat 32 bs.length
    run := some { word := encode i, point := .pushed site rest } }

theorem emitted_emitted (u : State) (i : Instr) (site : PushSite) (b : Byte) (bs rest : List Byte) :
    (u.emitted i site [b] (bs ++ rest)).emitted i site bs rest = u.emitted i site (b :: bs) rest := by
  simp only [State.emitted, List.append_assoc, List.singleton_append, List.length_cons, BitVec.add_assoc,
    List.length_nil, Nat.zero_add, BitVec.ofNat_add, BitVec.add_comm (1#32)]

theorem engaged_emitted {u : State} {i : Instr} {site : PushSite} {bs rest : List Byte} (h : Engaged i u) :
    Engaged i (u.emitted i site bs rest) := ⟨⟨_, rfl⟩, h.host, h.inReset⟩

/-- With room on the output, one step for each byte. -/
theorem run_pushes {i : Instr} {site : PushSite} (bs : List Byte) {u : State} (h : Engaged i u)
    (hp : AtPoint i (.pushed site bs) u) (hroom : u.outFifo.length + bs.length ≤ u.cfg.outDepth) :
    Host.Core.run Sys2Proof.core bs.length u = .next (u.emitted i site bs []) := by
  induction bs generalizing u with
  | nil =>
    have hrun : u.run = some { word := encode i, point := .pushed site [] } := hp
    simp [Host.Core.run, State.emitted, ← hrun]
  | cons b bs ih =>
    rw [List.length_cons] at hroom
    have hstep : exec i u = .next (u.emitted i site [b] bs) :=
      (arrives_afterPush hp).push hp (by omega)
    rw [List.length_cons, Nat.add_comm, run_add 1 _ _ (run_one_of_engaged h hstep),
      ih (engaged_emitted h) rfl (by simp [State.emitted]; omega)]
    have hall := emitted_emitted u i site b bs []
    rw [List.append_nil] at hall
    rw [hall]

/-- A step that arrives where bytes are to be pushed, and the steps that push them. -/
theorem run_emit {i : Instr} {site : PushSite} {bs : List Byte} {fin : State → Request}
    {s u : State} (hs : Engaged i s) (hu : Engaged i u) (h : Arrives i s (emit site bs fin u)) (hne : bs ≠ [])
    (hroom : u.outFifo.length + bs.length ≤ u.cfg.outDepth) :
    Host.Core.run Sys2Proof.core bs.length s = .next (u.emitted i site bs []) := by
  obtain ⟨b, bs, rfl⟩ := List.exists_cons_of_ne_nil hne
  obtain ⟨p, hp⟩ := hu.run
  rw [List.length_cons] at hroom
  have hstep : exec i s = .next (u.emitted i site [b] bs) := Arrives.push h hp (by omega)
  have hall := emitted_emitted u i site b bs []
  rw [List.append_nil] at hall
  rw [List.length_cons, Nat.add_comm, run_add 1 _ _ (run_one_of_engaged hs hstep),
    run_pushes bs (engaged_emitted hu) rfl (by simp [State.emitted]; omega), hall]

end Sys2Proof.Machine
end

/-! ## ENC_CHUNK writes the chunk's record (spec/41_encoder.md R160, R180) -/

section
namespace Sys2Proof.Machine

/-! ### Loading a chunk (R160) -/

/-- The buffer after the bytes `bs` are stored from index `k` on. -/
def storeBytes : Memory → Nat → List Byte → Memory
  | m, _, [] => m
  | m, k, b :: bs => storeBytes (Memory.insert m k b) (k + 1) bs

theorem storeBytes_append_single (m : Memory) (k : Nat) (bs : List Byte) (b : Byte) :
    storeBytes m k (bs ++ [b]) = Memory.insert (storeBytes m k bs) (k + bs.length) b := by
  induction bs generalizing m k with
  | nil => rfl
  | cons c bs ih =>
    rw [List.cons_append, storeBytes, ih, storeBytes, List.length_cons, Nat.add_right_comm, Nat.add_assoc]

/-- A stored byte reads back. -/
theorem lookup_storeBytes (m : Memory) (bs : List Byte) {j : Nat} (h : j < bs.length) :
    (storeBytes m 0 bs).lookup j = some bs[j] := by
  induction bs using List.reverseRecOn with
  | nil => cases h
  | append_singleton bs b ih =>
    rw [storeBytes_append_single, Nat.zero_add]
    rcases Nat.lt_or_ge j bs.length with hj | hj
    · rw [Memory.lookup_insert_of_ne _ _ (Nat.ne_of_lt hj), ih hj, List.getElem_append_left hj]
    · obtain rfl : j = bs.length := by simp at h; omega
      simp

/-- CHUNK_BUF read back after a chunk is stored. -/
theorem memReadList_storeBytes {s : State} {m : Memory} {chunk : List Byte} (h : s.chunkBuf = storeBytes m 0 chunk)
    (hsize : chunk.length ≤ s.cfg.maxChunk) : memReadList .chunk s chunk.length 0 = .ok chunk := by
  rw [memReadList_ok (by simpa [bufSize] using hsize)]
  congr 1
  refine List.ext_getElem (by simp) fun j hj hj' => ?_
  simp [State.bufByte, State.buf, h, lookup_storeBytes m chunk hj']

/-- The block at position `p` of command `i`. -/
def State.atPoint (v : State) (i : Instr) (p : Point) : State :=
  { v with run := some { word := encode i, point := p } }

/-- `v` after the bytes `pre` are stored and counted by ENC_LOAD's loop, with `rest` left in the input FIFO. -/
def State.counted (v : State) (pre rest : List Byte) : State :=
  { v with
    chunkBuf := storeBytes v.chunkBuf 0 pre, freq := freqOf pre, freqSpec := true, bitLen := 0#32, byteLen := 0#32
    inFifo := rest, inCount := v.inCount + BitVec.ofNat 32 pre.length }

/-- `v` after command `i` has counted `pre` and taken one byte more, `b`. -/
def State.taken (v : State) (i : Instr) (pre : List Byte) (b : Byte) (rest : List Byte) : State :=
  { (v.counted pre rest).atPoint i (.popped (.load v.chunkSize.toNat pre.length) (some b)) with
    inCount := v.inCount + BitVec.ofNat 32 (pre.length + 1) }

/-- `v` after ENC_LOAD's Body. -/
def State.loaded (v : State) (chunk rest : List Byte) : State :=
  { v.counted chunk rest with
    curLen := BitVec.ofNat 32 chunk.length, dictCount := BitVec.ofNat 32 (present (freqOf chunk)).length
    phase := .eLoaded }

section
variable {i : Instr} {s v : State} {pre rest chunk : List Byte} {b c : Byte}

theorem engaged_taken (h : Engaged i v) : Engaged i (v.taken i pre b rest) := ⟨⟨_, rfl⟩, h.host, h.inReset⟩

theorem arrives_encLoadGot {cs k : Nat} {b : Option Byte} (h : AtPoint i (.popped (.load cs k) b) s) :
    Arrives i s ((encLoadGot cs k b s).andThen (nextOf i .load)) := arrives_afterPop h

/-- The byte that was taken is stored and counted, and the loop goes on. -/
theorem arrives_taken (hk : pre.length < v.cfg.maxChunk) :
    Arrives i (v.taken i pre b rest)
      ((encLoadLoop v.chunkSize.toNat (pre.length + 1) ((v.counted (pre ++ [b]) rest).atPoint i
        (.popped (.load v.chunkSize.toNat pre.length) (some b)))).andThen (nextOf i .load)) := by
  have harr := arrives_encLoadGot (s := v.taken i pre b rest) rfl
  rw [encLoadGot_byte (s := v.taken i pre b rest) hk] at harr
  simpa [State.taken, State.atPoint, State.counted, storeBytes_append_single, freqOf_append_single] using harr

/-- Where the loop goes on, a step of a loading command takes the next byte. -/
theorem exec_taken (hsize : v.chunkSize.toNat ≤ v.cfg.maxChunk)
    (hlt : pre.length + 1 < v.chunkSize.toNat) :
    exec i (v.taken i pre b (c :: rest)) = .next (v.taken i (pre ++ [b]) c rest) := by
  have harr := arrives_taken (i := i) (b := b) (rest := c :: rest) (show pre.length < v.cfg.maxChunk by omega)
  rw [encLoadLoop, if_pos hlt, andThen_pop] at harr
  rw [harr.byte rfl rfl]
  simp [State.taken, State.atPoint, State.counted, BitVec.add_assoc, BitVec.ofNat_add]

/-- The bytes of a chunk are taken one a step, from where ENC_LOAD's Body begins. -/
theorem run_taken (hs : Engaged i s) (hv : Engaged i v)
    (hbegin : Arrives i s ((encLoadStart v).andThen (nextOf i .load))) (hsize : v.chunkSize.toNat ≤ v.cfg.maxChunk)
    (hlt : pre.length < v.chunkSize.toNat) (hf : v.inFifo = pre ++ b :: rest) :
    Host.Core.run Sys2Proof.core (pre.length + 1) s = .next (v.taken i pre b rest) := by
  induction pre using List.reverseRecOn generalizing b rest with
  | nil =>
    obtain ⟨p, hp⟩ := hv.run
    refine run_one_of_engaged hs ?_
    rw [encLoadStart_of_pos (by omega), andThen_pop] at hbegin
    rw [hbegin.byte hp hf]
    simp [State.taken, State.atPoint, State.counted, storeBytes, freqOf]
  | append_singleton pre a ih =>
    have hlen : (pre ++ [a]).length = pre.length + 1 := by simp
    rw [hlen] at hlt ⊢
    have hbefore := ih (b := a) (rest := b :: rest) (by omega) (by simpa using hf)
    exact run_succ hbefore (engaged_taken hv) (exec_taken hsize hlt)

/-- ENC_LOAD's Body ends with the chunk loaded. -/
theorem encLoadFinish_counted (v : State) (p : Point) (hne : chunk ≠ []) :
    encLoadFinish chunk.length ((v.counted chunk rest).atPoint i p) = .done ((v.loaded chunk rest).atPoint i p) :=
  encLoadFinish_of_pos (List.length_pos_iff.mpr hne)

/-- After the last byte of the chunk, or after EOF, the command goes on behind ENC_LOAD's Body. -/
theorem run_load (hs : Engaged i s) (hv : Engaged i v)
    (hbegin : Arrives i s ((encLoadStart v).andThen (nextOf i .load))) (hsize : v.chunkSize.toNat ≤ v.cfg.maxChunk)
    (hf : v.inFifo = chunk ++ rest) (hne : chunk ≠ [])
    (hend : chunk.length = v.chunkSize.toNat ∨
      (chunk.length < v.chunkSize.toNat ∧ rest = [] ∧ v.inClosed = true)) :
    ∃ m ≤ chunk.length + 1, ∃ u p, Host.Core.run Sys2Proof.core m s = .next u ∧ Engaged i u ∧
      Arrives i u (nextOf i .load ((v.loaded chunk rest).atPoint i p)) := by
  obtain ⟨pre, b, rfl⟩ := (List.eq_nil_or_concat' chunk).resolve_left hne
  have hlen : (pre ++ [b]).length = pre.length + 1 := by simp
  have hlast := run_taken (pre := pre) (b := b) (rest := rest) hs hv hbegin hsize (by omega) (by simpa using hf)
  have harr := arrives_taken (i := i) (b := b) (rest := rest) (show pre.length < v.cfg.maxChunk by omega)
  rw [← hlen] at harr hlast
  rcases hend with hfull | ⟨hshort, rfl, hclosed⟩
  · rw [encLoadLoop, if_neg hfull.not_lt, encLoadFinish_counted v _ hne, andThen_done] at harr
    exact ⟨_, Nat.le_succ _, _, _, hlast, engaged_taken hv, harr⟩
  · rw [encLoadLoop, if_pos hshort, andThen_pop] at harr
    have heof := arrives_encLoadGot (i := i) (s := (v.counted (pre ++ [b]) []).atPoint i
      (.popped (.load v.chunkSize.toNat (pre ++ [b]).length) none)) rfl
    rw [encLoadGot, encLoadFinish_counted v _ hne, andThen_done] at heof
    exact ⟨_, le_rfl, _, _, run_succ hlast (engaged_taken hv) (harr.eof rfl rfl hclosed),
      ⟨⟨_, rfl⟩, hv.host, hv.inReset⟩, heof⟩

end

/-! ### Encoding a loaded chunk (R170, R175, R180, R220) -/

/-- `s` after TB_BUILD and CT_GEN, for a chunk that has a record. -/
def State.coded (s : State) (chunk : List Byte) : State :=
  { s with
    codeLen := chunkCodeLen chunk, codeVal := chunkCodeVal chunk, codeSpec := true, tree := none, queue := []
    bitLen := chunkBitLen chunk, byteLen := chunkByteLen chunk, phase := .eCodes }

/-- `v` after command `i` has loaded the chunk and pushed its dictionary. -/
def State.dictPushed (v : State) (i : Instr) (chunk rest : List Byte) : State :=
  ((v.loaded chunk rest).coded chunk).emitted i .dict (chunkDict chunk) []

/-- The end of ENC_EMIT_DICT's Body. -/
def State.dictDone (s : State) : State := { s with phase := .eDict }

/-- The end of BP_PACK's Body. -/
def State.packDone (s : State) : State := { s with chunkCount := s.chunkCount + 1, phase := .idle }

/-- `v` after command `i` has loaded the chunk and pushed its record. -/
def State.written (v : State) (i : Instr) (chunk rest : List Byte) : State :=
  (v.dictPushed i chunk rest).dictDone.emitted i .pack (chunkPack chunk) []

section
variable {i : Instr} {s v : State} {chunk rest : List Byte}

theorem coded_atPoint (u : State) (i : Instr) (p : Point) (chunk : List Byte) :
    (u.atPoint i p).coded chunk = (u.coded chunk).atPoint i p := rfl

theorem engaged_atPoint (h : Engaged i v) (p : Point) : Engaged i (v.atPoint i p) :=
  ⟨⟨p, rfl⟩, h.host, h.inReset⟩

theorem engaged_loaded (h : Engaged i v) : Engaged i (v.loaded chunk rest) := ⟨h.run, h.host, h.inReset⟩

theorem engaged_coded (h : Engaged i v) : Engaged i (v.coded chunk) := ⟨h.run, h.host, h.inReset⟩

theorem engaged_dictDone (h : Engaged i v) : Engaged i v.dictDone := ⟨h.run, h.host, h.inReset⟩

theorem engaged_dictPushed (h : Engaged i v) : Engaged i (v.dictPushed i chunk rest) :=
  engaged_emitted (engaged_coded (engaged_loaded h))

theorem engaged_written (h : Engaged i v) : Engaged i (v.written i chunk rest) :=
  engaged_emitted (engaged_dictDone (engaged_dictPushed h))

/-- The block that has written a chunk's record and completes. -/
theorem complete_written (v : State) (i : Instr) (chunk rest : List Byte) :
    let t := (v.written i chunk rest).packDone.complete
    t.run = none ∧ t.phase = .idle ∧ t.outFifo = v.outFifo ++ (chunkDict chunk ++ chunkPack chunk) ∧
      t.inFifo = rest ∧ t.chunkCount = v.chunkCount + 1 ∧
      t.outCount = v.outCount + BitVec.ofNat 32 (chunkDict chunk ++ chunkPack chunk).length ∧
      t.endFlag = v.endFlag ∧ t.host = v.host := by
  simp [State.packDone, State.written, State.emitted, State.dictDone, State.dictPushed, State.coded, State.loaded,
    State.counted, BitVec.ofNat_add, BitVec.add_assoc]

/-- A loaded chunk that has a record is coded, and ENC_EMIT_DICT begins. -/
theorem afterLoad_of_hasRecord (hfreq : s.freq = freqOf chunk) (hlen : s.curLen ≠ 0#32) (h : HasRecord chunk) :
    afterLoad s = emitDictStart (s.coded chunk) := by
  have hle : ∀ l ∈ leavesOf (buildQueue s.freq).head?, l.2.length ≤ 32 := hfreq ▸ h
  rw [afterLoad, if_neg hlen, tbBuildBody, andThen_done, ctGenBody_of_le hle, andThen_done]
  simp only [State.coded, chunkByteLen, chunkBitLen, chunkCodeLen, chunkCodeVal, leavesOfChunk, ← hfreq]

/-- A chunk that MAX_CHUNK admits has a length that CUR_LEN holds (R11, R47). -/
theorem toNat_ofNat_chunkLength (h : chunk.length < 2 ^ 27) :
    (BitVec.ofNat 32 chunk.length).toNat = chunk.length := by
  rw [BitVec.toNat_ofNat, Nat.mod_eq_of_lt (by omega)]

theorem arrives_dictDone (h : AtPoint i (.pushed .dict []) s) : Arrives i s (nextOf i .dict s.dictDone) :=
  arrives_afterPush h

theorem arrives_packDone (h : AtPoint i (.pushed .pack []) s) : Arrives i s (nextOf i .pack s.packDone) :=
  arrives_afterPush h

/-- The chunk is read back from CHUNK_BUF, and the record's last part is pushed. -/
theorem packStart_of_stored {m : Memory} (hbuf : s.chunkBuf = storeBytes m 0 chunk)
    (hcur : s.curLen.toNat = chunk.length) (hsize : chunk.length ≤ s.cfg.maxChunk)
    (hlen : s.codeLen = chunkCodeLen chunk) (hval : s.codeVal = chunkCodeVal chunk)
    (hbits : s.bitLen = chunkBitLen chunk) (hbytes : s.byteLen = chunkByteLen chunk) :
    packStart s = emit .pack (chunkPack chunk) packFinish s := by
  rw [packStart, hcur, memReadList_storeBytes hbuf hsize, hlen, hval, hbits, hbytes]
  rfl

theorem packStart_dictPushed (hsize : chunk.length ≤ v.cfg.maxChunk) (hmax : chunk.length < 2 ^ 27) :
    packStart (v.dictPushed i chunk rest).dictDone =
      emit .pack (chunkPack chunk) packFinish (v.dictPushed i chunk rest).dictDone :=
  packStart_of_stored (m := v.chunkBuf) rfl (toNat_ofNat_chunkLength hmax) hsize rfl rfl rfl rfl

/-- A command that goes on as ENC_CHUNK does, from where it finds its chunk loaded to the last byte of the record. -/
theorem run_encode {p : Point} (hdict : nextOf i .dict = packStart) (hs : Engaged i s) (hv : Engaged i v)
    (harr : Arrives i s (afterLoad ((v.loaded chunk rest).atPoint i p))) (hne : chunk ≠ [])
    (hsize : chunk.length ≤ v.cfg.maxChunk) (hmax : chunk.length < 2 ^ 27) (h : HasRecord chunk)
    (hroom : v.outFifo.length + (chunkDict chunk).length + (chunkPack chunk).length ≤ v.cfg.outDepth) :
    Host.Core.run Sys2Proof.core ((chunkDict chunk).length + (chunkPack chunk).length) s =
      .next (v.written i chunk rest) := by
  have hcur : BitVec.ofNat 32 chunk.length ≠ 0#32 := fun h0 =>
    hne (List.length_eq_zero_iff.mp ((toNat_ofNat_chunkLength hmax).symm.trans (congrArg BitVec.toNat h0)))
  have hpushed : Engaged i (v.dictPushed i chunk rest) := engaged_dictPushed hv
  have hcoded : Engaged i (((v.loaded chunk rest).coded chunk).atPoint i p) :=
    engaged_atPoint (engaged_coded (engaged_loaded hv)) p
  rw [afterLoad_of_hasRecord rfl hcur h, coded_atPoint] at harr
  have hdictRun := run_emit (site := .dict) (bs := chunkDict chunk) hs hcoded harr (by simp [chunkDict, be32])
    (show v.outFifo.length + _ ≤ v.cfg.outDepth by omega)
  have harrPack := arrives_dictDone (i := i) (s := v.dictPushed i chunk rest) rfl
  rw [hdict, packStart_dictPushed hsize hmax] at harrPack
  have hpackRun := run_emit hpushed (engaged_dictDone hpushed) harrPack (by simp [chunkPack, be32])
    (show (v.outFifo ++ chunkDict chunk).length + _ ≤ v.cfg.outDepth by simp; omega)
  exact (run_add _ _ _ hdictRun).trans hpackRun

end

/-- Settles O41. The chunk is loaded, its record is pushed, and the block completes; where the chunk ends without
EOF the run is one step longer than need be. -/
theorem encChunkWritesTheRecord : Obligations.EncChunkWritesTheRecord := by
  intro s chunk rest hs hhost hreset hphase hcfg hsize hf hne hend h hroom
  have hmax := ((params_wellFormed_iff s.cfg).mp hcfg).2.1
  have hdictLen := chunkDict_length_le chunk
  have hpackLen := chunkPack_length_le h
  have hengaged : Engaged .encChunk s := ⟨⟨_, hs⟩, hhost, hreset⟩
  have hbegin : Arrives .encChunk s ((encLoadStart s).andThen afterLoad) :=
    arrives_atStart (.inr hs) (decide_eq_true hphase) (by rw [← show s.run = _ from hs]; rfl)
  obtain ⟨m, hm, u, p, hu, hengagedU, harr⟩ := run_load hengaged hengaged hbegin hsize hf hne hend
  have hwritten := run_encode rfl hengagedU hengaged harr hne (by omega) (by omega) h (by omega)
  have hlast := (arrives_packDone (i := .encChunk) (s := s.written .encChunk chunk rest) rfl).done
  have hrun := run_succ ((run_add m _ s hu).trans hwritten) (engaged_written hengaged) hlast
  obtain ⟨hidle, hphaseEnd, hout, hin, hcount, houtCount, hendFlag, hhostEnd⟩ :=
    complete_written s .encChunk chunk rest
  have hlen : m + ((chunkDict chunk).length + (chunkPack chunk).length) + 1 ≤
      chunk.length + (chunkDict chunk ++ chunkPack chunk).length + 2 := by rw [List.length_append]; omega
  exact ⟨_, _, isRecord_chunk h (by omega), run_of_le hrun hidle (hhostEnd.trans hhost) hlen, hidle, hphaseEnd,
    hout, hin, hcount, houtCount, hendFlag⟩

end Sys2Proof.Machine
end

/-! ## Command words (spec/30_encoding.md R110 to R115) -/

section
namespace Sys2Proof.Machine

/-! ### The rows of the opcode table -/

theorem mem_of_lookupOpcode {op : Byte} {i : Instr} {rows : List (Byte × Instr)}
    (h : lookupOpcode op rows = some i) : (op, i) ∈ rows := by
  induction rows with
  | nil => cases h
  | cons row rows ih =>
    unfold lookupOpcode at h
    split_ifs at h with ho
    · cases h; subst ho; exact List.mem_cons_self
    · exact List.mem_cons_of_mem _ (ih h)

theorem lookupOpcode_eq_none_iff {op : Byte} {rows : List (Byte × Instr)} :
    lookupOpcode op rows = none ↔ op ∉ rows.map Prod.fst := by
  induction rows with
  | nil => simp [lookupOpcode]
  | cons row rows ih =>
    unfold lookupOpcode
    split_ifs with ho
    · simp [ho]
    · simp [ih, eq_comm (a := op), ho]

/-- Each row has the opcode of its command's word. -/
theorem opcode_of_mem_rows {op : Byte} {i : Instr} (h : (op, i) ∈ opcodeRows) : op = opcodeOf (encode i) := by
  have hrows : ∀ row ∈ opcodeRows, row.1 = opcodeOf (encode row.2) := by decide
  exact hrows _ h

/-- The reserved opcodes are those without a row (R112). -/
theorem reservedOpcode_iff (op : Byte) : ReservedOpcode op ↔ op ∉ opcodeRows.map Prod.fst := by
  simp only [ReservedOpcode, opcodeRows, List.map_cons, List.map_nil, List.mem_cons, List.not_mem_nil, or_false,
    ← BitVec.toNat_inj, BitVec.toNat_ofNat, Nat.reducePow, Nat.reduceMod]
  omega

/-! ### The decoder -/

/-- A word is its reserved field and its opcode (R110). -/
theorem reservedOf_append_opcodeOf (w : Word) : reservedOf w ++ opcodeOf w = w := by
  apply BitVec.eq_of_getLsbD_eq
  intro k hk
  rw [BitVec.getLsbD_append]
  split_ifs with h
  · simp [opcodeOf, h]
  · simp [reservedOf, show k - 8 < 24 by omega, show 8 + (k - 8) = k by omega]

theorem reservedOf_encode (i : Instr) : reservedOf (encode i) = 0#24 := by
  cases i <;> rfl

/-- A word decodes to a command exactly when it is the command's word. -/
theorem decode_eq_ok_iff {w : Word} {i : Instr} : decode w = .ok i ↔ w = encode i := by
  constructor
  · intro h
    unfold decode at h
    split_ifs at h with hres
    split at h
    · next j hj =>
      cases h
      have hop : opcodeOf w = opcodeOf (encode i) := opcode_of_mem_rows (mem_of_lookupOpcode hj)
      rw [← reservedOf_append_opcodeOf w, hres, hop, ← reservedOf_encode i, reservedOf_append_opcodeOf]
    · cases h
  · rintro rfl
    exact decode_encode i

/-- The illegal words (R112). -/
theorem decode_error_iff {w : Word} :
    (∃ e, decode w = .error e) ↔ reservedOf w ≠ 0#24 ∨ ReservedOpcode (opcodeOf w) := by
  rw [reservedOpcode_iff, ← lookupOpcode_eq_none_iff]
  unfold decode
  by_cases hres : reservedOf w = 0#24
  · cases hlook : lookupOpcode (opcodeOf w) opcodeRows <;> simp [hres]
  · simp [hres]

/-- Settles O1, by the decoder's own tests on the table's words. -/
theorem sampleWordsDecode : Obligations.SampleWordsDecode :=
  ⟨decode_nop, decode_clear, decode_encLoad, decode_bpPack, decode_encAll, decode_buReadPayload, decode_decAll, rfl,
    rfl⟩

/-- Settles O2. A word's number is below 2^32, so the table's entry point decodes the word itself. -/
theorem decodeUndoesEncode : Obligations.DecodeUndoesEncode := by
  intro i _
  refine ⟨decode_encode i, ?_⟩
  have hmod : (encode i).toNat % 2 ^ 32 = (encode i).toNat := Nat.mod_eq_of_lt (encode i).isLt
  rw [decodeTableWord, hmod, if_pos (encode i).isLt, BitVec.ofNat_toNat, BitVec.setWidth_eq, decode_encode]

end Sys2Proof.Machine
end

/-! ## A step of the machine, and the phase a command may run in
(spec/30_encoding.md R112, R113; spec/40_control.md R150 to R154; spec/60_exceptions.md R310, R315) -/

section
namespace Sys2Proof.Machine

/-- The error entry, field by field, for the word `w` (R43, R310). -/
theorem raiseError_of_run {s : State} {w : Word} {p : Point} (c : ErrCode)
    (h : s.run = some { word := w, point := p }) :
    s.raiseError c = { s with
      errCode := c.code, errInfo := s.phase.code ++ w.extractLsb' 0 8, phase := .error, run := none,
      irqStatus := s.irqStatus ||| 0b10#2, tree := none, queue := [], cand := none } := by
  simp [State.raiseError, errInfoOf, opcodeOf, State.word, h, setErr]

/-- The engine's turn with an accepted illegal word is the ILLEGAL_CMD error entry (R112). -/
theorem engineTurn_of_illegal {s : State} {r : Run} {e : Reject} (hrun : s.run = some r)
    (hdec : decode r.word = .error e) (hreset : s.inReset = false) :
    engineTurn s = .next { s with
      errCode := 0x01#8, errInfo := s.phase.code ++ r.word.extractLsb' 0 8, phase := .error, run := none,
      irqStatus := s.irqStatus ||| 0b10#2, tree := none, queue := [], cand := none } :=
  (engineTurn_illegal hrun hdec hreset).trans (congrArg _ (raiseError_of_run .illegalCmd hrun))

/-- Where the host leaves the step to the engine, the step is the engine's turn on the state it finds. -/
theorem step_of_givesTurn {s u : State} (h : GivesTurn s u) : step s = engineTurn u := by
  rcases h with ⟨hhost, rfl⟩ | ⟨rest, hhost, rfl⟩ | ⟨v, rest, hhost, rfl⟩ | ⟨m, rest, hhost, hready, rfl⟩
  · rw [step, hhost]
  · simp [step, hhost, Move.ready, Move.leavesEngine, Move.act]
  · simp [step, hhost, Move.ready, Move.leavesEngine, Move.act, ackWrite]
  · exact step_of_not_ready hhost hready

/-- Settles O3, from when the decoder answers a command, when it answers an error, and what the engine's turn does
with an illegal word. -/
theorem everyWordIsACommandOrIllegal : Obligations.EveryWordIsACommandOrIllegal := by
  refine ⟨fun w => decode_error_iff.symm, fun w i => decode_eq_ok_iff, fun s w hw hrun hreset hhost => ?_⟩
  obtain ⟨e, he⟩ := decode_error_iff.mpr hw
  rw [step_of_givesTurn (.inl ⟨hhost, rfl⟩), engineTurn_of_illegal hrun he hreset]

/-- The moves that leave the step to the engine can always be made. -/
theorem leavesEngine_iff {m : Move} : m.leavesEngine = true ↔ m = .engine ∨ ∃ v, m = .ackSameStep v := by
  cases m <;> simp [Move.leavesEngine]

/-- Either the engine has its turn or the host makes a move that is the whole step. -/
theorem givesTurn_or_move (s : State) :
    (∃ u, GivesTurn s u) ∨ ∃ m rest, s.host = m :: rest ∧ m.ready s = true ∧ m.leavesEngine = false := by
  cases hhost : s.host with
  | nil => exact .inl ⟨s, .inl ⟨hhost, rfl⟩⟩
  | cons m rest =>
    rcases hready : m.ready s with _ | _
    · exact .inl ⟨s, .inr (.inr (.inr ⟨m, rest, hhost, hready, rfl⟩))⟩
    rcases hleaves : m.leavesEngine with _ | _
    · exact .inr ⟨m, rest, rfl, hready, hleaves⟩
    · rcases leavesEngine_iff.mp hleaves with rfl | ⟨v, rfl⟩
      · exact .inl ⟨_, .inr (.inl ⟨rest, hhost, rfl⟩)⟩
      · exact .inl ⟨_, .inr (.inr (.inl ⟨v, rest, hhost, rfl⟩))⟩

/-- Settles O4, from what the engine's turn does with a command, an illegal word, no command, and in reset. -/
theorem everyStepIsAHostActionOrAnEngineStep : Obligations.EveryStepIsAHostActionOrAnEngineStep := by
  refine ⟨fun s u h => ?_, fun s m rest => step_of_ready, givesTurn_or_move⟩
  rw [step_of_givesTurn h]
  exact ⟨fun r i => engineTurn_ok, fun r e => engineTurn_of_illegal, engineTurn_idle, engineTurn_inReset⟩

/-- The first step of a command in a phase it may not run in (R113). -/
theorem exec_atStart_wrongPhase {i : Instr} {s : State} (h : AtStart i s) (hphase : allowedIn i s.phase = false) :
    exec i s = .next (State.raiseError .sequence { s with run := some { word := encode i, point := .start } }) := by
  rw [exec_eq_engineStep, engineStep, accept_of_atStart h]
  simp [compute, State.point, hphase]

/-- Settles O7. The phase check comes before the Body; NOP's and CLEAR's Bodies complete at once. -/
theorem wrongPhaseRaisesSequence : Obligations.WrongPhaseRaisesSequence := by
  refine ⟨fun i p s hrow hs hphase => ?_, fun i s hi hs => ?_⟩
  · have hwrong : allowedIn i s.phase = false := (allowedIn_of_mem_phaseRows hrow _).trans (decide_eq_false hphase)
    rw [exec_atStart_wrongPhase hs hwrong, raiseError_of_run (w := encode i) (p := .start) .sequence rfl]
    rfl
  · have hdone (irq : BitVec 2) : (setDone irq).getLsbD 0 = true := by simp [setDone]
    rcases hi with rfl | rfl
    · exact ⟨_, exec_atStart hs rfl, rfl, hdone _⟩
    · exact ⟨_, exec_atStart hs rfl, rfl, hdone _⟩

end Sys2Proof.Machine
end

/-! ## The phase that a command leaves (spec/30_encoding.md R113; spec/41_encoder.md R160, R180; spec/44_decoder.md
R240, R258) -/

section
namespace Sys2Proof.Machine

/-- Where the computation ends without an error, `D` holds. -/
def Request.EndsIn (r : Request) (D : State → Prop) : Prop :=
  r.Meets { pop := fun _ _ => True, push := fun _ _ => True, done := D, error := fun _ _ => True, fault := True }

/-- What each Body leaves where it ends (R113): the next phase, with END where the input has ended (R160, R240). -/
def bodyLeaves : Body → State → Prop
  | .load, u => (u.phase = .idle ∧ u.curLen = 0#32 ∧ u.endFlag = true) ∨ (u.phase = .eLoaded ∧ u.curLen ≠ 0#32)
  | .dict, u => u.phase = .eDict
  | .pack, u => u.phase = .idle
  | .count, u => (u.phase = .idle ∧ u.endFlag = true) ∨ u.phase = .dEntries
  | .entries, u => u.phase = .dMeta
  | .lengths, u => u.phase = .dPayload
  | .payload, u => u.phase = .dDecode
  | .decode, u => u.phase = .idle

/-- What each command leaves where it completes, begun in phase `p`: a step command what its Body does (R113), a
composite IDLE (R151). -/
def commandLeaves (p : Phase) : Instr → State → Prop
  | .nop, u => u.phase = p
  | .clear, u => u.phase = .idle
  | .encLoad, u => bodyLeaves .load u
  | .tbBuild, u => u.phase = .eTree
  | .ctGen, u => u.phase = .eCodes
  | .encEmitDict, u => bodyLeaves .dict u
  | .bpPack, u => bodyLeaves .pack u
  | .encChunk, u => u.phase = .idle
  | .encAll, u => u.phase = .idle
  | .decReadCount, u => bodyLeaves .count u
  | .decReadEntries, u => bodyLeaves .entries u
  | .decReadMeta, u => bodyLeaves .lengths u
  | .buReadPayload, u => bodyLeaves .payload u
  | .decDecode, u => bodyLeaves .decode u
  | .decChunk, u => u.phase = .idle
  | .decAll, u => u.phase = .idle

section
variable {s : State} {D D' : State → Prop} {r : Request}

theorem Request.EndsIn.mono (h : r.EndsIn D) (hD : ∀ u, D u → D' u) : r.EndsIn D' :=
  Request.Meets.mono h (fun _ _ => id) (fun _ _ => id) hD (fun _ _ => id) id

theorem Request.EndsIn.andThen {k : State → Request} (h : r.EndsIn D) (hk : ∀ u, D u → (k u).EndsIn D') :
    (r.andThen k).EndsIn D' :=
  Request.Meets.andThen h hk

theorem endsIn_anyEnd (r : Request) : r.EndsIn anyEnd := by
  cases r <;> trivial

/-- A second part that never ends in this step, after any first part. -/
theorem endsIn_andThen_of_forall {k : State → Request} (hk : ∀ u, (k u).EndsIn D) : (r.andThen k).EndsIn D :=
  (endsIn_anyEnd r).andThen fun u _ => hk u

theorem endsIn_emit {fin : State → Request} (site : PushSite) (bs : List Byte) (h : (fin s).EndsIn D) :
    (emit site bs fin s).EndsIn D := by
  cases bs with
  | nil => exact h
  | cons b rest => trivial

/-! ### The Bodies of the encoder -/

theorem endsIn_encLoadFinish {k : Nat} (hp : s.phase = .idle) (hk : k < 2 ^ 32) :
    (encLoadFinish k s).EndsIn (bodyLeaves .load) := by
  unfold encLoadFinish
  dsimp only
  split
  · next h0 => exact .inl ⟨hp, by rw [h0], rfl⟩
  · next h0 =>
    refine .inr ⟨rfl, fun hlen => h0 ?_⟩
    have hnat : (BitVec.ofNat 32 k).toNat = 0 := congrArg BitVec.toNat hlen
    rwa [BitVec.toNat_ofNat, Nat.mod_eq_of_lt hk] at hnat

theorem endsIn_encLoadLoop {cs k : Nat} (hp : s.phase = .idle) (hk : k < 2 ^ 32) :
    (encLoadLoop cs k s).EndsIn (bodyLeaves .load) := by
  unfold encLoadLoop
  split
  · trivial
  · exact endsIn_encLoadFinish hp hk

theorem endsIn_encLoadGot {cs k : Nat} (hp : s.phase = .idle) (hk : k + 1 < 2 ^ 32) (b : Option Byte) :
    (encLoadGot cs k b s).EndsIn (bodyLeaves .load) := by
  cases b with
  | none => exact endsIn_encLoadFinish hp (Nat.lt_of_succ_lt hk)
  | some b =>
    simp only [encLoadGot]
    cases hw : memWrite .chunk k b s with
    | error f => trivial
    | ok t =>
      obtain ⟨-, rfl⟩ := memWrite_ok.mp hw
      exact endsIn_encLoadLoop hp hk

theorem endsIn_ctGenBody : (ctGenBody s).EndsIn (·.phase = .eCodes) := by
  unfold ctGenBody
  dsimp only
  split
  · trivial
  · exact rfl

/-- DICT_COUNT comes first, so an ENC_EMIT_DICT does not end in the step that begins it (R175). -/
theorem endsIn_emitDictStart : (emitDictStart s).EndsIn D := trivial

/-- BIT_LEN comes first, so a BP_PACK does not end in the step that begins it (R220). -/
theorem endsIn_packStart : (packStart s).EndsIn D := by
  unfold packStart
  cases memReadList .chunk s s.curLen.toNat 0 <;> trivial

theorem endsIn_afterLoad (h : bodyLeaves .load s) : (afterLoad s).EndsIn (·.phase = .idle) := by
  unfold afterLoad
  split
  · next h0 => exact h.elim And.left fun hloaded => absurd h0 hloaded.2
  · exact endsIn_andThen_of_forall fun _ => endsIn_emitDictStart

theorem endsIn_encLoadStart (hp : s.phase = .idle) : (encLoadStart s).EndsIn (bodyLeaves .load) :=
  endsIn_encLoadLoop hp (by decide)

theorem endsIn_encLoadStart_andThen (hp : s.phase = .idle) :
    ((encLoadStart s).andThen afterLoad).EndsIn (·.phase = .idle) :=
  (endsIn_encLoadStart hp).andThen fun _ => endsIn_afterLoad

/-! ### The Bodies of the decoder -/

theorem endsIn_readCountGot (got : List Byte) (b : Option Byte) (hp : s.phase = .idle) :
    (readCountGot got b s).EndsIn (bodyLeaves .count) := by
  cases b with
  | none =>
    cases got with
    | nil => exact .inl ⟨hp, rfl⟩
    | cons c got => trivial
  | some b =>
    simp only [readCountGot]
    split
    · unfold readCountCheck
      dsimp only
      split
      · trivial
      · exact .inr rfl
    · trivial

theorem endsIn_entriesLoop (i : Nat) : (entriesLoop i s).EndsIn (bodyLeaves .entries) := by
  unfold entriesLoop
  split
  · trivial
  · exact rfl

theorem endsIn_entryGot (i : Nat) (got : List Byte) (b : Option Byte) :
    (entryGot i got b s).EndsIn (bodyLeaves .entries) := by
  cases b with
  | none => trivial
  | some b =>
    simp only [entryGot]
    split
    · unfold entryCheck
      split
      · trivial
      split
      · trivial
      · exact endsIn_entriesLoop _
    · trivial

theorem endsIn_bitLenGot (got : List Byte) (b : Option Byte) : (bitLenGot got b s).EndsIn (bodyLeaves .lengths) := by
  cases b with
  | none => trivial
  | some b => simp only [bitLenGot]; split <;> trivial

theorem endsIn_byteLenGot (got : List Byte) (b : Option Byte) :
    (byteLenGot got b s).EndsIn (bodyLeaves .lengths) := by
  cases b with
  | none => trivial
  | some b =>
    simp only [byteLenGot]
    split
    · unfold metaCheck
      split
      · trivial
      split
      · trivial
      · exact rfl
    · trivial

theorem endsIn_payloadLoop (t : Nat) : (payloadLoop t s).EndsIn (bodyLeaves .payload) := by
  unfold payloadLoop
  split
  · trivial
  · exact rfl

theorem endsIn_payloadGot (t : Nat) (b : Option Byte) : (payloadGot t b s).EndsIn (bodyLeaves .payload) := by
  cases b with
  | none => trivial
  | some b =>
    simp only [payloadGot]
    cases memWrite .payload t b s with
    | error f => trivial
    | ok u => exact endsIn_payloadLoop _

theorem endsIn_decodeEmit (k : Nat) : (decodeEmit k s).EndsIn (bodyLeaves .decode) := by
  unfold decodeEmit
  split
  · trivial
  · exact endsIn_emit .decoded _ rfl

theorem endsIn_decodeLoop (todo j k : Nat) : (decodeLoop todo j k s).EndsIn (bodyLeaves .decode) := by
  induction todo generalizing j k s with
  | zero =>
    unfold decodeLoop
    split
    · trivial
    · exact endsIn_decodeEmit k
  | succ todo ih =>
    unfold decodeLoop
    split
    · trivial
    dsimp only
    split
    · trivial
    split
    · exact ih _ _
    split
    · trivial
    split
    · trivial
    · exact ih _ _

theorem endsIn_afterCount : (afterCount s).EndsIn (·.phase = .idle) := by
  unfold afterCount
  split
  · next hp => exact hp
  · exact endsIn_andThen_of_forall fun _ => trivial

theorem endsIn_payloadStart_andThen : ((payloadStart s).andThen decodeStart).EndsIn (bodyLeaves .decode) :=
  endsIn_andThen_of_forall fun _ => endsIn_decodeLoop _ _ _

/-! ### The commands -/

variable {i : Instr} {p : Phase}

/-- At a position of a Body, its variables are in their bounds. -/
theorem endsIn_afterPop {site : PopSite} {b : Option Byte} (hcfg : s.cfg.wellFormed = true)
    (hok : PointOk s (.popped site b)) : (afterPop site b s).EndsIn (bodyLeaves site.body) := by
  cases site with
  | load cs k =>
    obtain ⟨hp, hk, hcs⟩ := hok
    have hmax := ((params_wellFormed_iff s.cfg).mp hcfg).2.1
    exact endsIn_encLoadGot hp (by omega) b
  | count got => exact endsIn_readCountGot got b hok.1
  | entry n got => exact endsIn_entryGot n got b
  | bitLen got => exact endsIn_bitLenGot got b
  | byteLen got => exact endsIn_byteLenGot got b
  | payload t => exact endsIn_payloadGot t b

theorem endsIn_afterPush (site : PushSite) (rest : List Byte) :
    (afterPush site rest s).EndsIn (bodyLeaves site.body) := by
  cases site with
  | dict | pack | decoded => exact endsIn_emit _ rest rfl

/-- The Body a command begins with, in a phase it may run in. -/
theorem endsIn_bodyOf (hphase : allowedIn i s.phase = true) : (bodyOf i s).EndsIn (commandLeaves s.phase i) := by
  cases i with
  | nop | clear | tbBuild => exact rfl
  | encLoad => exact endsIn_encLoadStart (of_decide_eq_true hphase)
  | ctGen => exact endsIn_ctGenBody
  | encEmitDict => exact endsIn_emitDictStart
  | bpPack => exact endsIn_packStart
  | encChunk | encAll => exact endsIn_encLoadStart_andThen (of_decide_eq_true hphase)
  | decReadCount | decReadMeta | decChunk | decAll => trivial
  | decReadEntries => exact endsIn_entriesLoop 0
  | buReadPayload => exact endsIn_payloadLoop 0
  | decDecode => exact endsIn_decodeLoop _ _ _

/-- A step command leaves what its one Body leaves. -/
theorem commandLeaves_of_bodyLeaves {b : Body} (hi : isComposite i = false) (hb : hasBody i b = true)
    (h : bodyLeaves b s) : commandLeaves p i s := by
  cases i with
  | nop | clear | tbBuild | ctGen => cases hb
  | encChunk | encAll | decChunk | decAll => cases hi
  | encLoad | encEmitDict | bpPack | decReadCount | decReadEntries | decReadMeta | buReadPayload | decDecode =>
    obtain rfl := of_decide_eq_true hb
    exact h

/-- What follows a Body that the command has. -/
theorem endsIn_nextOf {b : Body} (hb : hasBody i b = true) (h : bodyLeaves b s) :
    (nextOf i b s).EndsIn (commandLeaves p i) := by
  rcases hi : isComposite i with _ | _
  · rw [nextOf_of_not_composite hi]
    exact commandLeaves_of_bodyLeaves hi hb h
  cases i with
  | encChunk =>
    cases b with
    | load => exact endsIn_afterLoad h
    | dict => exact endsIn_packStart
    | pack => exact h
    | count | entries | lengths | payload | decode => cases hb
  | encAll =>
    cases b with
    | load => exact endsIn_afterLoad h
    | dict => exact endsIn_packStart
    | pack => exact endsIn_encLoadStart_andThen h
    | count | entries | lengths | payload | decode => cases hb
  | decChunk =>
    cases b with
    | count => exact endsIn_afterCount
    | entries => trivial
    | lengths => exact endsIn_payloadStart_andThen
    | payload => exact endsIn_decodeLoop _ _ _
    | decode => exact h
    | load | dict | pack => cases hb
  | decAll =>
    cases b with
    | count => exact endsIn_afterCount
    | entries | decode => trivial
    | lengths | payload => exact endsIn_andThen_of_forall fun _ => trivial
    | load | dict | pack => cases hb
  | nop | clear | encLoad | tbBuild | ctGen | encEmitDict | bpPack | decReadCount | decReadEntries | decReadMeta
  | buReadPayload | decDecode => cases hi

end

theorem endsIn_compute {i : Instr} {s : State} {r : Run} (h : Inv s) (hr : s.run = some r)
    (hd : decode r.word = .ok i) :
    (compute i (bodyOf i) (nextOf i) s).EndsIn (commandLeaves s.phase i) := by
  have hhas := hasPoint_of_inv h hr hd
  have hok := pointOk_of_inv h
  unfold compute
  split
  next hp =>
    split
    · next hphase => exact endsIn_bodyOf hphase
    · trivial
  next site b hp =>
    rw [hp] at hhas hok
    exact (endsIn_afterPop h.sized.cfg hok).andThen fun _ => endsIn_nextOf hhas
  next site rest hp =>
    rw [hp] at hhas
    exact (endsIn_afterPush site rest).andThen fun _ => endsIn_nextOf hhas

/-- A step after which a running command runs no more has completed it, or is an error entry. -/
theorem completes_or_error {i : Instr} {s t : State} {r : Run} (hr : s.run = some r) (h : exec i s = .next t)
    (ht : t.run = none) :
    (∃ u, compute i (bodyOf i) (nextOf i) s = .done u ∧ t = u.complete) ∨ t.phase = .error := by
  have hends := exec_ends h
  rw [accept_of_run hr] at hends
  have hrun := compute_keeps_run (i := i) (s := s)
  generalize compute i (bodyOf i) (nextOf i) s = req at hends hrun
  cases hends with
  | byte | eof | push => simp [hrun.1, hr] at ht
  | popHold | pushHold => exact absurd (hr.symm.trans ht) nofun
  | @done u => exact .inl ⟨u, rfl, rfl⟩
  | error => exact .inr rfl

/-- What a command leaves, as the rows of R113 say it. -/
theorem nextPhaseRows_of_commandLeaves {i : Instr} {p : Phase} {u : State} (h : commandLeaves p i u) (hi : i ≠ .nop) :
    (i, u.phase) ∈ nextPhaseRows := by
  cases i with
  | nop => exact absurd rfl hi
  | encLoad => rcases h with ⟨h, -, -⟩ | ⟨h, -⟩ <;> rw [h] <;> decide
  | decReadCount => rcases h with ⟨h, -⟩ | h <;> rw [h] <;> decide
  | clear | tbBuild | ctGen | encEmitDict | bpPack | encChunk | encAll | decReadEntries | decReadMeta | buReadPayload
  | decDecode | decChunk | decAll => rw [show u.phase = _ from h]; decide

/-- Settles O8. A step after which the command runs no more, and that is no error entry, has completed it. -/
theorem completionLeavesTheNextPhase : Obligations.CompletionLeavesTheNextPhase := by
  intro i s t hinv hrun h ht hne
  obtain ⟨u, hu, rfl⟩ := (completes_or_error hrun h ht).resolve_right hne
  have hleaves : commandLeaves s.phase i u := by
    have hends := endsIn_compute hinv hrun (decode_encode i)
    rwa [hu] at hends
  refine ⟨?_, nextPhaseRows_of_commandLeaves (u := u) hleaves, ?_, ?_⟩
  · rintro rfl
    exact hleaves
  · rintro rfl hidle
    exact (hleaves.resolve_right fun hloaded => nomatch hidle.symm.trans hloaded.1).2
  · rintro rfl hidle
    exact (hleaves.resolve_right fun hentries => nomatch hidle.symm.trans hentries).2

end Sys2Proof.Machine
end

/-! ## The control unit: how a command word is accepted, NOP and CLEAR, and the steps that complete the composites
(spec/40_control.md R150 to R156; spec/41_encoder.md R180, R182; spec/44_decoder.md R258, R260) -/

section
namespace Sys2Proof.Machine

/-! ### A command word placed for the engine (R150, R153) -/

/-- Settles O5. The placed turn is the engine's, and it finds the block with the word of `i` accepted. -/
theorem fetchWordRunsNext : Obligations.FetchWordRunsNext := by
  intro s i
  have hword : BitVec.ofNat 32 ((encode i).toNat % 2 ^ 32) = encode i := by
    rw [Nat.mod_eq_of_lt (encode i).isLt, BitVec.ofNat_toNat, BitVec.setWidth_eq]
  rw [step_of_givesTurn (.inr (.inl ⟨s.host, rfl, rfl⟩)), State.withFetchWord, hword]
  exact engineTurn_ok rfl (decode_encode i) rfl

/-! ### Writes of CMD (R150) -/

section
variable {s : State} {w : Word}

theorem writeCsr_cmd (h : s.inReset = false) (w : Word) : writeCsr 0x0004#16 w s = writeCmd w s := by
  simp [writeCsr, h]

theorem writeCmd_of_busy (h : s.busy = true) : writeCmd w s = { s with cmdDrop := true } := if_pos h

/-- In PHASE = ERROR an idle block drops every word but those of NOP and CLEAR. -/
theorem writeCmd_of_error (h : s.busy = false) (hphase : s.phase = .error) (hnop : w ≠ encode .nop)
    (hclear : w ≠ encode .clear) : writeCmd w s = { s with cmdDrop := true } :=
  (if_neg (Bool.eq_false_iff.mp h)).trans (if_pos ⟨hphase, hnop, hclear⟩)

/-- An idle block accepts a word, in PHASE = ERROR those of NOP and CLEAR. -/
theorem writeCmd_of_accepted (h : s.busy = false)
    (hword : s.phase = .error → w = encode .nop ∨ w = encode .clear) :
    writeCmd w s = { s with run := some { word := w, point := .start }, free := s.free + 1 } :=
  (if_neg (Bool.eq_false_iff.mp h)).trans
    (if_neg fun ⟨hphase, hnop, hclear⟩ => (hword hphase).elim hnop hclear)

end

/-- Settles O6, from the three branches of an acceptance. -/
theorem commandWriteIsAcceptedOrDropped : Obligations.CommandWriteIsAcceptedOrDropped := by
  intro s w hreset
  rw [writeCsr_cmd hreset]
  exact ⟨writeCmd_of_busy, writeCmd_of_error, writeCmd_of_accepted⟩

/-! ### NOP and CLEAR (R154, R156) -/

/-- With opcode 0 it is only the reserved field that can tell a word from NOP's. -/
theorem reservedOf_ne_zero_of_ne_nop {w : Word} (hop : opcodeOf w = 0x00#8) (hw : w ≠ encode .nop) :
    reservedOf w ≠ 0#24 := by
  intro hres
  apply hw
  rw [← reservedOf_append_opcodeOf w, hres, hop]
  rfl

/-- Settles O21. NOP's Body is its end, and its word is one that an idle block accepts in every phase; another word
with opcode 0 has a reserved bit set, and it is not CLEAR's, so that PHASE = ERROR drops it. -/
theorem nopCompletes : Obligations.NopCompletes := by
  refine ⟨fun s hs => exec_atStart hs rfl, fun s hreset hidle => ?_, fun w hop hw => ?_,
    fun s w hreset hidle hphase hop hw => ?_⟩
  · rw [writeCsr_cmd hreset, writeCmd_of_accepted hidle fun _ => .inl rfl]
  · exact if_neg (reservedOf_ne_zero_of_ne_nop hop hw)
  · have hclear : w ≠ encode .clear := by
      rintro rfl
      exact absurd hop (by decide)
    rw [writeCsr_cmd hreset, writeCmd_of_error hidle hphase hw hclear]

/-- Settles O22. CLEAR's Body ends at once in the cleared state; its word is one that an idle block accepts in every
phase. -/
theorem clearCompletes : Obligations.ClearCompletes := by
  refine ⟨fun s hs => exec_atStart hs rfl, fun s hreset hidle => ?_, fun s hreset hbusy => ?_⟩
  · rw [writeCsr_cmd hreset, writeCmd_of_accepted hidle fun _ => .inr rfl]
  · rw [writeCsr_cmd hreset, writeCmd_of_busy hbusy]

/-! ### The composites of the encoder (R180, R182) -/

/-- At the end of the input with no byte loaded, END is set and the phase stays (R160). -/
theorem encLoadFinish_zero (s : State) :
    encLoadFinish 0 s = .done { s with
      curLen := 0#32, dictCount := BitVec.ofNat 32 (present s.freq).length, endFlag := true } := rfl

/-- With no byte loaded the composites return (R180). -/
theorem afterLoad_of_empty {s : State} (h : s.curLen = 0#32) : afterLoad s = .done s := if_pos h

theorem nextOf_load {i : Instr} (hi : i = .encChunk ∨ i = .encAll) : nextOf i .load = afterLoad := by
  rcases hi with rfl | rfl
  · rfl
  · rfl

/-- ENC_ALL begins its next chunk in the step in which it ends one (R182). -/
theorem arrives_encAll_nextChunk {s : State} (hs : AtPoint .encAll (.pushed .pack []) s)
    (hsize : 1 ≤ s.chunkSize.toNat) :
    Arrives .encAll s (.pop { s.packDone with
      freq := Table.zero 32, freqSpec := true, bitLen := 0#32, byteLen := 0#32 } (.load s.chunkSize.toNat 0)) := by
  have harr : Arrives .encAll s ((encLoadStart s.packDone).andThen afterLoad) := arrives_packDone hs
  rwa [encLoadStart_of_pos (show 1 ≤ s.packDone.chunkSize.toNat from hsize), andThen_pop] at harr

/-- Settles O40. After ENC_LOAD's last EOF the composites arrive at their end; after BP_PACK's last byte ENC_CHUNK does,
and ENC_ALL arrives at the first InPop of the next chunk. -/
theorem encCompositesComplete : Obligations.EncCompositesComplete := by
  refine ⟨fun i s cs hi hs => ?_, fun s hs => ?_, fun s b rest hs hsize hf => ?_, fun s hs hsize hf hc => ?_⟩
  · have harr : Arrives i s ((encLoadFinish 0 s).andThen (nextOf i .load)) := arrives_afterPop hs
    rw [encLoadFinish_zero, andThen_done, nextOf_load hi, afterLoad_of_empty rfl] at harr
    exact harr.done
  · exact (arrives_packDone hs).done
  · exact (arrives_encAll_nextChunk hs hsize).byte hs hf
  · exact (arrives_encAll_nextChunk hs hsize).eof hs hf hc

/-! ### The composites of the decoder (R258, R260) -/

/-- At the end of the container the composites return (R258). -/
theorem afterCount_of_idle {s : State} (h : s.phase = .idle) : afterCount s = .done s := if_pos h

theorem nextOf_count {i : Instr} (hi : i = .decChunk ∨ i = .decAll) : nextOf i .count = afterCount := by
  rcases hi with rfl | rfl
  · rfl
  · rfl

/-- The end of DEC_DECODE's Body. -/
def State.decodeDone (s : State) : State :=
  { s with chunkCount := s.chunkCount + 1, phase := .idle, cand := none }

theorem arrives_decodeDone {i : Instr} {s : State} (h : AtPoint i (.pushed .decoded []) s) :
    Arrives i s (nextOf i .decode s.decodeDone) := arrives_afterPush h

/-- DEC_ALL begins its next record in the step in which it ends one (R260). -/
theorem arrives_decAll_nextRecord {s : State} (hs : AtPoint .decAll (.pushed .decoded []) s) :
    Arrives .decAll s (.pop { s.decodeDone with curLen := 0#32, bitLen := 0#32, byteLen := 0#32 } (.count [])) :=
  arrives_decodeDone hs

/-- Settles O50. After DEC_READ_COUNT's EOF the composites arrive at their end; after DEC_DECODE's last byte DEC_CHUNK
does, and DEC_ALL arrives at the first InPop of the next record. -/
theorem decCompositesComplete : Obligations.DecCompositesComplete := by
  refine ⟨fun i s hi hs hphase => ?_, fun s hs => ?_, fun s b rest hs hf => ?_, fun s hs hf hc => ?_⟩
  · have harr : Arrives i s (nextOf i .count { s with endFlag := true }) := arrives_afterPop hs
    rw [nextOf_count hi, afterCount_of_idle (s := { s with endFlag := true }) hphase] at harr
    exact harr.done
  · exact (arrives_decodeDone hs).done
  · exact (arrives_decAll_nextRecord hs).byte hs hf
  · exact (arrives_decAll_nextRecord hs).eof hs hf hc

end Sys2Proof.Machine
end

/-! ## CT_GEN: a leaf that is too deep, the codewords and the payload bit length (spec/41_encoder.md R170 to R173) -/

section
namespace Sys2Proof.Machine

/-! ### CODE_TOO_LONG (R170) -/

/-- CT_GEN's Body where a leaf is deeper than 32. -/
theorem ctGenBody_of_deep {s : State} (h : ∃ l ∈ leavesOf s.tree, 32 < l.2.length) :
    ctGenBody s = .error { s with codeSpec := false } .codeTooLong := by
  have hany : (leavesOf s.tree).any (fun l => decide (32 < l.2.length)) = true := by simpa using h
  simp [ctGenBody, hany]

/-- Settles O33. CT_GEN's Body raises the error where a leaf is too deep, and where none is it completes with ERR_CODE
as it was. -/
theorem ctGenCodeTooLong : Obligations.CtGenCodeTooLong := by
  refine ⟨fun s hs hp hdeep => ?_, fun s t hs hp h ht hne => ?_⟩
  · have harr : Arrives .ctGen s _ := arrives_atStart hs (decide_eq_true hp) (ctGenBody_of_deep hdeep)
    rw [harr.error, raiseError_of_run .codeTooLong rfl, hp]
    rfl
  · by_contra hshallow
    rw [exec_ctGen_of_le hs hp (by simpa using hshallow)] at h
    cases h
    exact hne ht

/-! ### No codeword begins with another (R172) -/

/-- The path of a leaf begins with the path of every node above it. -/
theorem Tree.prefix_of_mem_paths {t : Tree} {p : Bits} {l : Byte × Bits} (h : l ∈ t.paths p) : p <+: l.2 := by
  induction t generalizing p with
  | leaf sym f k =>
    obtain rfl := List.mem_singleton.mp h
    exact List.prefix_rfl
  | single c f k ih => exact (List.prefix_append p [false]).trans (ih h)
  | node left right f k ihl ihr =>
    rcases List.mem_append.mp h with h | h
    · exact (List.prefix_append p [false]).trans (ihl h)
    · exact (List.prefix_append p [true]).trans (ihr h)

/-- Neither of two bit strings begins with the other. -/
def PrefixApart (p q : Bits) : Prop := ¬ p <+: q ∧ ¬ q <+: p

/-- Two paths part for good where one goes left and the other right. -/
theorem prefixApart_of_children {p q r : Bits} (hq : p ++ [false] <+: q) (hr : p ++ [true] <+: r) :
    PrefixApart q r := by
  have hpart {x : Bits} (hleft : p ++ [false] <+: x) (hright : p ++ [true] <+: x) : False := by
    have heq := (List.prefix_of_prefix_length_le hleft hright (by simp)).eq_of_length (by simp)
    simp at heq
  exact ⟨fun h => hpart (hq.trans h) hr, fun h => hpart hq (hr.trans h)⟩

/-- No leaf is above another, so no leaf's path begins with another's. -/
theorem Tree.paths_pairwise_prefixApart (t : Tree) (p : Bits) :
    (t.paths p).Pairwise fun l m => PrefixApart l.2 m.2 := by
  induction t generalizing p with
  | leaf sym f k => exact List.pairwise_singleton _ _
  | single c f k ih => exact ih _
  | node left right f k ihl ihr =>
    exact List.pairwise_append.mpr ⟨ihl _, ihr _, fun l hl m hm =>
      prefixApart_of_children (prefix_of_mem_paths hl) (prefix_of_mem_paths hm)⟩

theorem leavesOf_prefixApart {t : Option Tree} {l m : Byte × Bits} (hl : l ∈ leavesOf t) (hm : m ∈ leavesOf t)
    (hne : l ≠ m) : PrefixApart l.2 m.2 := by
  cases t with
  | none => cases hl
  | some t =>
    have : Std.Symm fun l m : Byte × Bits => PrefixApart l.2 m.2 := ⟨fun _ _ => And.symm⟩
    exact (t.paths_pairwise_prefixApart []).forall hl hm hne

/-- A symbol that CODE_LEN gives a length has a leaf. -/
theorem pathOf_mem_of_codeLenOf_ne {leaves : List (Byte × Bits)} (hnd : (leaves.map Prod.fst).Nodup) {b : Byte}
    (h : Table.entry (codeLenOf leaves) b.toNat ≠ 0#6) : (b, pathOf leaves b) ∈ leaves := by
  refine (pathOf_cases leaves b).resolve_right fun ⟨_, hpath⟩ => h ?_
  rw [entry_codeLenOf hnd, hpath]
  rfl

/-- Settles O34. A codeword is the path of its symbol's leaf, and the paths of two leaves part at the node where one
goes left and the other right. -/
theorem codeTableIsPrefixFree : Obligations.CodeTableIsPrefixFree := by
  intro s t hs hp h ht hnd a b hne ha hb
  have hle := length_le_of_exec_ctGen hs hp h ht
  rw [exec_ctGen_of_le hs hp hle] at h
  cases h
  show ¬ codewordOf (codeLenOf (leavesOf s.tree)) (codeValOf (leavesOf s.tree)) a <+:
    codewordOf (codeLenOf (leavesOf s.tree)) (codeValOf (leavesOf s.tree)) b
  rw [codewordOf_leaves hnd hle, codewordOf_leaves hnd hle]
  exact (leavesOf_prefixApart (pathOf_mem_of_codeLenOf_ne hnd ha) (pathOf_mem_of_codeLenOf_ne hnd hb)
    fun heq => hne (congrArg Prod.fst heq)).1

/-! ### The payload bit length (R173) -/

/-- Settles O35, by counting how often each symbol occurs in the chunk. -/
theorem bitLenIsTheLengthOfTheCodewords : Obligations.BitLenIsTheLengthOfTheCodewords :=
  fun _ codeLen codeVal h => payloadBits_freqOf h codeLen codeVal

end Sys2Proof.Machine
end

/-! ## ENC_EMIT_DICT (spec/41_encoder.md R175) -/

section
namespace Sys2Proof.Machine

/-- A dictionary has a count and an entry of six bytes for each symbol present. -/
theorem dictBytes_length (s : State) : (dictBytes s).length = 4 + 6 * (present s.freq).length := by
  have hentry : ∀ sym, (dictEntry s.codeLen s.codeVal sym).length = 6 := fun _ => rfl
  simp only [dictBytes, List.length_append, be32_length, List.length_flatMap, hentry, List.map_const',
    List.sum_replicate, smul_eq_mul, Nat.mul_comm]

theorem dictBytes_ne_nil (s : State) : dictBytes s ≠ [] := List.cons_ne_nil _ _

/-- ENC_EMIT_DICT begins to push its bytes (R175). -/
theorem arrives_emitDictStart {s : State} (hs : AtStart .encEmitDict s) (hphase : s.phase = .eCodes) :
    Arrives .encEmitDict s (emit .dict (dictBytes s) emitDictFinish (s.atPoint .encEmitDict .start)) :=
  arrives_atStart hs (decide_eq_true hphase) rfl

/-- Settles O37. The bytes of the dictionary are pushed one a step, and the step after the last of them completes. -/
theorem encEmitDictEmitsAndCompletes : Obligations.EncEmitDictEmitsAndCompletes := by
  have hlast (s : State) (hs : AtPoint .encEmitDict (.pushed .dict []) s) :
      exec .encEmitDict s = .next s.dictDone.complete := (arrives_dictDone hs).done
  refine ⟨⟨fun s hs hphase hroom => ?_, hlast⟩, fun s hs hhost hreset hphase hroom => ?_⟩
  · obtain ⟨first, others, hbytes⟩ := List.exists_cons_of_ne_nil (dictBytes_ne_nil s)
    have harr := arrives_emitDictStart hs hphase
    rw [hbytes] at harr
    exact ⟨first, others, hbytes.symm, dictBytes_length s, harr.push rfl hroom⟩
  · have hengaged : Engaged .encEmitDict s := ⟨⟨_, hs⟩, hhost, hreset⟩
    have hpushed := run_emit hengaged (engaged_atPoint hengaged .start) (arrives_emitDictStart (.inr hs) hphase)
      (dictBytes_ne_nil s) (by rw [dictBytes_length]; exact (Nat.add_assoc _ _ _).symm.trans_le hroom)
    have hrun := run_succ hpushed (engaged_emitted (engaged_atPoint hengaged .start)) (hlast _ rfl)
    rw [dictBytes_length] at hrun
    rw [hrun]
    simp only [State.emitted, State.dictDone, State.complete, State.atPoint, dictBytes_length]
    rfl

end Sys2Proof.Machine
end

/-! ## A whole ENC_LOAD (spec/41_encoder.md R160, R161) -/

section
namespace Sys2Proof.Machine

/-- The symbols present are the distinct bytes of the chunk. -/
theorem present_freqOf_perm {chunk : List Byte} (h : chunk.length < 2 ^ 32) :
    (present (freqOf chunk)).Perm (chunk.dedup.map BitVec.toNat) := by
  have hfreq (b : Byte) : Table.entry (freqOf chunk) b.toNat ≠ 0#32 ↔ b ∈ chunk := by
    rw [← List.count_pos_iff, ← toNat_entry_freqOf h, Nat.pos_iff_ne_zero, ne_eq, ne_eq, ← BitVec.toNat_inj]
    rfl
  refine (List.perm_ext_iff_of_nodup ((present_sorted _).imp Nat.ne_of_lt)
    ((List.nodup_dedup chunk).map fun _ _ => BitVec.eq_of_toNat_eq)).mpr fun i => ?_
  simp only [mem_present, List.mem_map, List.mem_dedup]
  constructor
  · rintro ⟨hi, hne⟩
    refine ⟨BitVec.ofNat 8 i, (hfreq _).mp ?_, toNat_ofNat_symbol hi⟩
    rwa [toNat_ofNat_symbol hi]
  · rintro ⟨b, hb, rfl⟩
    exact ⟨b.isLt, (hfreq b).mpr hb⟩

theorem present_freqOf_length {chunk : List Byte} (h : chunk.length < 2 ^ 32) :
    (present (freqOf chunk)).length = chunk.dedup.length :=
  (present_freqOf_perm h).length_eq.trans (List.length_map _)

/-- A stored chunk reads back from CHUNK_BUF byte by byte. -/
theorem bufByte_of_storeBytes {s : State} {m : Memory} {chunk : List Byte} (h : s.chunkBuf = storeBytes m 0 chunk)
    {k : Nat} (hk : k < chunk.length) : s.bufByte .chunk k = chunk[k] := by
  simp [State.bufByte, State.buf, h, lookup_storeBytes m chunk hk]

/-- Settles O27. The bytes are taken one a step, and the step after the last one or after EOF completes; where the chunk
ends without EOF the run is one step longer than need be. -/
theorem encLoadLoadsTheWholeChunk : Obligations.EncLoadLoadsTheWholeChunk := by
  intro s chunk rest hs hhost hreset hphase hcfg hsize hf hne hend
  have hmax := ((params_wellFormed_iff s.cfg).mp hcfg).2.1
  have hlen : chunk.length < 2 ^ 32 := by omega
  have hengaged : Engaged .encLoad s := ⟨⟨_, hs⟩, hhost, hreset⟩
  have hbegin : Arrives .encLoad s ((encLoadStart s).andThen (nextOf .encLoad .load)) :=
    arrives_atStart (.inr hs) (decide_eq_true hphase)
      (by rw [← show s.run = _ from hs]; exact (andThen_atEnd _ .load).symm)
  obtain ⟨m, hm, u, p, hu, hengagedU, harr⟩ := run_load hengaged hengaged hbegin hsize hf hne hend
  have hdone : Arrives .encLoad u (.done ((s.loaded chunk rest).atPoint .encLoad p)) := harr
  have hrun := run_of_le (run_succ hu hengagedU hdone.done) rfl hhost (Nat.succ_le_succ hm)
  refine ⟨_, hrun, rfl, rfl, rfl, rfl, rfl, fun k => bufByte_of_storeBytes rfl, toNat_entry_freqOf hlen, ?_, rfl, rfl,
    rfl, rfl, getLsbD_zero_setDone _⟩
  have hcount : (present (freqOf chunk)).length < 2 ^ 32 := (present_length_le _).trans_lt (by decide)
  exact (BitVec.toNat_ofNat _ _).trans ((Nat.mod_eq_of_lt hcount).trans (present_freqOf_length hlen))

end Sys2Proof.Machine
end

/-! ## ENC_ALL writes the records of the input's chunks (spec/41_encoder.md R162, R182, R184) -/

section
namespace Sys2Proof.Machine

/-! ### The partition of the input (R162) -/

section
variable {cs turns : Nat} {x : List Byte}

/-- With a turn for each byte, the partition is empty only where no byte is left. -/
theorem eq_nil_of_chunksOf_eq_nil (hturns : x.length ≤ turns) (h : chunksOf cs turns x = []) : x = [] := by
  cases turns with
  | zero => exact List.length_eq_zero_iff.mp (Nat.le_zero.mp hturns)
  | succ turns => simpa [chunksOf] using h

/-- The first chunk of a partition, and the partition of the rest. -/
theorem chunksOf_eq_cons {c : List Byte} {cs' : List (List Byte)} (hsize : 1 ≤ cs) (hturns : x.length ≤ turns)
    (h : chunksOf cs turns x = c :: cs') :
    x ≠ [] ∧ c = x.take cs ∧
      ∃ turns', (x.drop cs).length ≤ turns' ∧ cs' = chunksOf cs turns' (x.drop cs) := by
  cases turns with
  | zero => cases h
  | succ turns =>
    cases x with
    | nil => cases h
    | cons b x =>
      obtain ⟨rfl, rfl⟩ := List.cons.inj h
      refine ⟨List.cons_ne_nil _ _, rfl, turns, ?_, rfl⟩
      rw [List.length_cons] at hturns
      rw [List.length_drop, List.length_cons]
      omega

end

/-! ### From chunk to chunk (R182) -/

/-- In the step from `s` ENC_ALL begins its next chunk, in the state `v`, with `x` left of the input, which is closed,
and with room for the records of `x`. -/
structure BeginsChunk (x : List Byte) (s v : State) : Prop where
  engaged  : Engaged .encAll s
  begins   : Engaged .encAll v
  arrives  : Arrives .encAll s ((encLoadStart v).andThen afterLoad)
  phase    : v.phase = .idle
  cfg      : v.cfg.wellFormed = true
  pos      : 1 ≤ v.chunkSize.toNat
  size     : v.chunkSize.toNat ≤ v.cfg.maxChunk
  inFifo   : v.inFifo = x
  inClosed : v.inClosed = true
  room     : v.outFifo.length + 1552 * x.length ≤ v.cfg.outDepth

section
variable {x chunk : List Byte} {s v : State}

theorem BeginsChunk.take_ne_nil (h : BeginsChunk x s v) (hne : x ≠ []) : x.take v.chunkSize.toNat ≠ [] :=
  fun hnil => (List.take_eq_nil_iff.mp hnil).elim (Nat.ne_of_gt h.pos) hne

/-- A chunk is no longer than MAX_CHUNK (R11). -/
theorem BeginsChunk.take_length_le (h : BeginsChunk x s v) :
    (x.take v.chunkSize.toNat).length ≤ v.cfg.maxChunk ∧ (x.take v.chunkSize.toNat).length < 2 ^ 27 := by
  have hmax := ((params_wellFormed_iff v.cfg).mp h.cfg).2.1
  have hle := (List.length_take_le _ x).trans h.size
  exact ⟨hle, by omega⟩

/-- The next chunk is loaded: a whole one, or the last one and then EOF. -/
theorem BeginsChunk.run_loadChunk (h : BeginsChunk x s v) (hne : x ≠ []) :
    ∃ n u p, Host.Core.run Sys2Proof.core n s = .next u ∧ Engaged .encAll u ∧
      Arrives .encAll u (afterLoad
        ((v.loaded (x.take v.chunkSize.toNat) (x.drop v.chunkSize.toNat)).atPoint .encAll p)) := by
  have hend : (x.take v.chunkSize.toNat).length = v.chunkSize.toNat ∨
      ((x.take v.chunkSize.toNat).length < v.chunkSize.toNat ∧ x.drop v.chunkSize.toNat = [] ∧ v.inClosed = true) := by
    rw [List.length_take]
    rcases Nat.lt_or_ge x.length v.chunkSize.toNat with hshort | hlong
    · exact .inr ⟨by omega, List.drop_eq_nil_of_le hshort.le, h.inClosed⟩
    · exact .inl (Nat.min_eq_left hlong)
  obtain ⟨n, -, u, p, hu, hengaged, harr⟩ := run_load h.engaged h.begins h.arrives h.size
    (h.inFifo.trans (List.take_append_drop v.chunkSize.toNat x).symm) (h.take_ne_nil hne) hend
  exact ⟨n, u, p, hu, hengaged, harr⟩

/-- The block that has written a chunk's record and goes on. -/
theorem packDone_written (v : State) (i : Instr) (chunk rest : List Byte) :
    let t := (v.written i chunk rest).packDone
    t.cfg = v.cfg ∧ t.chunkSize = v.chunkSize ∧ t.inFifo = rest ∧ t.inClosed = v.inClosed ∧ t.host = v.host ∧
      t.inReset = v.inReset ∧ t.outFifo = v.outFifo ++ (chunkDict chunk ++ chunkPack chunk) := by
  simp [State.packDone, State.written, State.emitted, State.dictDone, State.dictPushed, State.coded, State.loaded,
    State.counted]

/-- Where the record of a chunk is written, the next chunk begins. -/
theorem BeginsChunk.of_written {rest : List Byte} (h : BeginsChunk x s v)
    (hroom : v.outFifo.length + (chunkDict chunk).length + (chunkPack chunk).length + 1552 * rest.length ≤
      v.cfg.outDepth) :
    BeginsChunk rest (v.written .encAll chunk rest) (v.written .encAll chunk rest).packDone := by
  obtain ⟨hcfg, hsize, hin, hclosed, hhost, hreset, hout⟩ := packDone_written v .encAll chunk rest
  exact {
    engaged := engaged_written h.begins
    begins := ⟨⟨_, rfl⟩, hhost.trans h.begins.host, hreset.trans h.begins.inReset⟩
    arrives := arrives_packDone rfl
    phase := rfl
    cfg := by rw [hcfg]; exact h.cfg
    pos := by rw [hsize]; exact h.pos
    size := by rw [hsize, hcfg]; exact h.size
    inFifo := hin
    inClosed := hclosed.trans h.inClosed
    room := by rw [hcfg, hout, List.length_append, List.length_append]; omega }

/-- A chunk that has a record: it is appended to the output, and the next chunk begins. -/
theorem BeginsChunk.next (h : BeginsChunk x s v) (hne : x ≠ []) (hrec : HasRecord (x.take v.chunkSize.toNat)) :
    ∃ n s' v' r, Host.Core.run Sys2Proof.core n s = .next s' ∧
      BeginsChunk (x.drop v.chunkSize.toNat) s' v' ∧ v'.chunkSize = v.chunkSize ∧
      IsRecord (x.take v.chunkSize.toNat) r ∧ v'.outFifo = v.outFifo ++ r := by
  obtain ⟨n, u, p, hu, hengaged, harr⟩ := h.run_loadChunk hne
  have hchunk := h.take_ne_nil hne
  obtain ⟨hsize, hmax⟩ := h.take_length_le
  have hroom := h.room
  have hlen : (x.take v.chunkSize.toNat).length + (x.drop v.chunkSize.toNat).length = x.length := by
    rw [← List.length_append, List.take_append_drop]
  generalize x.take v.chunkSize.toNat = chunk, x.drop v.chunkSize.toNat = rest at *
  have hpos := List.length_pos_iff.mpr hchunk
  have hdict := chunkDict_length_le chunk
  have hpack := chunkPack_length_le hrec
  have hwritten := run_encode rfl hengaged h.begins harr hchunk hsize hmax hrec (by omega)
  obtain ⟨-, hsizeEnd, -, -, -, -, hout⟩ := packDone_written v .encAll chunk rest
  exact ⟨_, _, _, _, (run_add n _ s hu).trans hwritten, h.of_written (by omega), hsizeEnd, isRecord_chunk hrec hmax,
    hout⟩

/-- The chunks of a first part of the input that all have records: their records are appended in order. -/
theorem BeginsChunk.run_records {turns : Nat} {pre post : List (List Byte)} (h : BeginsChunk x s v)
    (hturns : x.length ≤ turns) (hchunks : chunksOf v.chunkSize.toNat turns x = pre ++ post)
    (hrec : ∀ c ∈ pre, HasRecord c) :
    ∃ n s' v' y turns' records, Host.Core.run Sys2Proof.core n s = .next s' ∧ BeginsChunk y s' v' ∧
      y.length ≤ turns' ∧ chunksOf v'.chunkSize.toNat turns' y = post ∧
      List.Forall₂ IsRecord pre records ∧ v'.outFifo = v.outFifo ++ records.flatten := by
  induction pre generalizing x s v turns with
  | nil => exact ⟨0, s, v, x, turns, [], rfl, h, hturns, hchunks, .nil, (List.append_nil _).symm⟩
  | cons c pre ih =>
    obtain ⟨hne, rfl, turns', hturns', hrest⟩ := chunksOf_eq_cons h.pos hturns hchunks
    obtain ⟨n, s', v', r, hrun, h', hsize, hr, hout⟩ := h.next hne (hrec _ List.mem_cons_self)
    rw [← hsize] at hrest hturns' h'
    obtain ⟨m, s'', v'', y, turns'', records, hrun', h'', hturns'', hpost, hrecords, hout'⟩ :=
      ih h' hturns' hrest.symm fun d hd => hrec d (List.mem_cons_of_mem _ hd)
    exact ⟨n + m, s'', v'', y, turns'', r :: records, (run_add n m s hrun).trans hrun', h'', hturns'', hpost,
      .cons (hsize ▸ hr) hrecords, by rw [hout', hout, List.append_assoc, List.flatten_cons]⟩

/-- With no input left, ENC_ALL takes EOF and completes with END set. -/
theorem BeginsChunk.run_end (h : BeginsChunk [] s v) :
    ∃ n t, Host.Core.run Sys2Proof.core n s = .next t ∧ t.run = none ∧ t.phase = .idle ∧ t.endFlag = true ∧
      t.outFifo = v.outFifo := by
  obtain ⟨p, hp⟩ := h.begins.run
  have harr := h.arrives
  rw [encLoadStart_of_pos h.pos, andThen_pop] at harr
  have heof := run_one_of_engaged h.engaged (harr.eof hp h.inFifo h.inClosed)
  have hlast := run_succ heof ⟨⟨_, rfl⟩, h.begins.host, h.begins.inReset⟩
    (encCompositesComplete.1 .encAll _ _ (.inr rfl) rfl)
  exact ⟨_, _, hlast, rfl, h.phase, rfl, rfl⟩

/-- A loaded chunk that has no record: CT_GEN's error ends the command (R180). -/
theorem afterLoad_of_not_hasRecord (hfreq : s.freq = freqOf chunk) (hlen : s.curLen ≠ 0#32) (h : ¬ HasRecord chunk) :
    ∃ u, afterLoad s = .error u .codeTooLong ∧ u.outFifo = s.outFifo := by
  have hdeep : ∃ l ∈ leavesOf (buildQueue s.freq).head?, 32 < l.2.length := by
    simpa [HasRecord, leavesOfChunk, ← hfreq] using h
  rw [afterLoad, if_neg hlen, tbBuildBody, andThen_done, ctGenBody_of_deep hdeep]
  exact ⟨_, rfl, rfl⟩

/-- A chunk that has no record ends ENC_ALL with CODE_TOO_LONG, and nothing more is pushed. -/
theorem BeginsChunk.run_error (h : BeginsChunk x s v) (hne : x ≠ []) (hrec : ¬ HasRecord (x.take v.chunkSize.toNat)) :
    ∃ n t, Host.Core.run Sys2Proof.core n s = .next t ∧ t.run = none ∧ t.phase = .error ∧ t.errCode = 0x03#8 ∧
      t.outFifo = v.outFifo := by
  obtain ⟨n, u, p, hu, hengaged, harr⟩ := h.run_loadChunk hne
  have hcur : BitVec.ofNat 32 (x.take v.chunkSize.toNat).length ≠ 0#32 := fun h0 =>
    h.take_ne_nil hne (List.length_eq_zero_iff.mp
      ((toNat_ofNat_chunkLength h.take_length_le.2).symm.trans (congrArg BitVec.toNat h0)))
  obtain ⟨w, hw, hout⟩ := afterLoad_of_not_hasRecord
    (s := (v.loaded (x.take v.chunkSize.toNat) (x.drop v.chunkSize.toNat)).atPoint .encAll p) rfl hcur hrec
  rw [hw] at harr
  exact ⟨_, _, run_succ hu hengaged harr.error, rfl, rfl, rfl, hout⟩

end

/-- Settles O42, by induction over the chunks that have records; then the input is at its end, or the next chunk has no
record. -/
theorem encAllWritesEveryRecord : Obligations.EncAllWritesEveryRecord := by
  intro s x hs hhost hreset hphase hcfg hpos hsize hf hclosed hout hroom
  have hengaged : Engaged .encAll s := ⟨⟨_, hs⟩, hhost, hreset⟩
  have hbegin : BeginsChunk x s s := {
    engaged := hengaged, begins := hengaged
    arrives := arrives_atStart (.inr hs) (decide_eq_true hphase) (by rw [← show s.run = _ from hs]; rfl)
    phase := hphase, cfg := hcfg, pos := hpos, size := hsize, inFifo := hf, inClosed := hclosed
    room := by rw [hout, List.length_nil]; omega }
  refine ⟨fun hrec => ?_, fun pre c post hchunks hrec hnot => ?_⟩
  · obtain ⟨n, s', v, y, turns, records, hrun, h, hturns, hend, hrecords, hv⟩ :=
      hbegin.run_records le_rfl (List.append_nil _).symm hrec
    obtain rfl := eq_nil_of_chunksOf_eq_nil hturns hend
    obtain ⟨m, t, hrun', hidle, hphase', hflag, hout'⟩ := h.run_end
    exact ⟨n + m, t, records, (run_add n m s hrun).trans hrun', hidle, hphase', hflag, hrecords,
      by rw [hout', hv, hout, List.nil_append]⟩
  · obtain ⟨n, s', v, y, turns, records, hrun, h, hturns, hnext, hrecords, hv⟩ :=
      hbegin.run_records le_rfl hchunks hrec
    obtain ⟨hne, rfl, -⟩ := chunksOf_eq_cons h.pos hturns hnext
    obtain ⟨m, t, hrun', hidle, hphase', hcode, hout'⟩ := h.run_error hne hnot
    exact ⟨n + m, t, records, (run_add n m s hrun).trans hrun', hidle, hphase', hcode, hrecords,
      by rw [hout', hv, hout, List.nil_append]⟩

end Sys2Proof.Machine
end

/-! ## Every step keeps conservation (spec/41_encoder.md R161) -/

section
namespace Sys2Proof.Machine

/-! ### The sum of the frequencies -/

theorem freqSum_eq (freq : Table Word) : freqSum freq = ∑ i ∈ Finset.range 256, (Table.entry freq i).toNat := by
  rw [freqSum, ← List.sum_toFinset _ List.nodup_range, List.toFinset_range]

@[simp] theorem freqSum_zero : freqSum (Table.zero 32) = 0 := by simp [freqSum_eq]

/-- Counting one byte adds one to the sum, where 32 bits hold the sum (R160). -/
theorem freqSum_count {freq : Table Word} (b : Byte) (h : freqSum freq + 1 < 2 ^ 32) :
    freqSum (Table.put freq b.toNat (Table.entry freq b.toNat + 1)) = freqSum freq + 1 := by
  have hb : b.toNat ∈ Finset.range 256 := Finset.mem_range.mpr b.isLt
  have hle : (Table.entry freq b.toNat).toNat ≤ freqSum freq := by
    rw [freqSum_eq]
    exact Finset.single_le_sum (f := fun i => (Table.entry freq i).toNat) (fun _ _ => Nat.zero_le _) hb
  have hentry (i : Nat) : (Table.entry (Table.put freq b.toNat (Table.entry freq b.toNat + 1)) i).toNat =
      (Table.entry freq i).toNat + if b.toNat = i then 1 else 0 := by
    split
    · next hi =>
      subst hi
      rw [Table.entry_put_self _ _ b.isLt, BitVec.toNat_add]
      exact Nat.mod_eq_of_lt (show _ + 1 < 2 ^ 32 by omega)
    · next hi => rw [Table.entry_put_of_ne _ _ (Ne.symm hi), Nat.add_zero]
  rw [freqSum_eq, freqSum_eq, Finset.sum_congr rfl fun i _ => hentry i, Finset.sum_add_distrib, Finset.sum_ite_eq,
    if_pos hb]

/-! ### What a computation keeps -/

/-- The phases from E_LOADED to E_DICT: a chunk is loaded. -/
def Phase.hasChunk (p : Phase) : Bool := p = .eLoaded || p = .eTree || p = .eCodes || p = .eDict

/-- The frequencies account for the loaded chunk. -/
def Accounted (s : State) : Prop :=
  freqSum s.freq = s.curLen.toNat ∧ 1 ≤ s.curLen.toNat ∧ s.dictCount.toNat = (present s.freq).length

/-- Where a chunk is loaded, the frequencies account for it. -/
def Balanced (s : State) : Prop := s.phase.hasChunk = true → Accounted s

/-- What ENC_LOAD leaves where it ends (R160): no chunk, or one that the frequencies account for. -/
def LoadBalanced (s : State) : Prop := (s.phase = .idle ∧ s.curLen = 0#32) ∨ Accounted s

theorem balanced_iff {s : State} : Balanced s ↔
    (s.phase = .eLoaded ∨ s.phase = .eTree ∨ s.phase = .eCodes ∨ s.phase = .eDict → Accounted s) := by
  simp [Balanced, Phase.hasChunk, or_assoc]

theorem balanced_of_noChunk {s : State} {p : Phase} (hp : s.phase = p) (h : p.hasChunk = false) : Balanced s :=
  fun hs => by simp [hp, h] at hs

theorem LoadBalanced.balanced {s : State} (h : LoadBalanced s) : Balanced s :=
  h.elim (fun hidle => balanced_of_noChunk hidle.1 rfl) fun hs _ => hs

/-- Wherever the computation arrives, ENC_LOAD has counted the bytes it has stored, and the books balance; where it
ends, `D` holds. -/
def balancedPost (D : State → Prop) : Post where
  pop u site := ∀ cs k, site = .load cs k → freqSum u.freq = k
  push u _ := Balanced u
  done := D
  error _ _ := True
  fault := True

section
variable {s : State} {D D' : State → Prop} {r : Request}

theorem balanced_mono (h : r.Meets (balancedPost D)) (hD : ∀ u, D u → D' u) : r.Meets (balancedPost D') :=
  h.mono (fun _ _ => id) (fun _ _ => id) hD (fun _ _ => id) id

theorem balanced_andThen {k : State → Request} (h : r.Meets (balancedPost D))
    (hk : ∀ u, D u → (k u).Meets (balancedPost D')) : (r.andThen k).Meets (balancedPost D') :=
  Request.Meets.andThen h hk

theorem balanced_emit {fin : State → Request} (site : PushSite) (bs : List Byte) (h : Balanced s)
    (hfin : (fin s).Meets (balancedPost D)) : (emit site bs fin s).Meets (balancedPost D) := by
  cases bs with
  | nil => exact hfin
  | cons b rest => exact h

/-! ### The Bodies of the encoder -/

theorem balanced_encLoadFinish {k : Nat} (hp : s.phase = .idle) (hsum : freqSum s.freq = k) (hk : k < 2 ^ 32) :
    (encLoadFinish k s).Meets (balancedPost LoadBalanced) := by
  unfold encLoadFinish
  dsimp only
  split
  · next h0 => exact .inl ⟨hp, by rw [h0]⟩
  · next h0 =>
    have hlen : (BitVec.ofNat 32 k).toNat = k := (BitVec.toNat_ofNat k 32).trans (Nat.mod_eq_of_lt hk)
    have hcount : (present s.freq).length < 2 ^ 32 := (present_length_le _).trans_lt (by decide)
    exact .inr ⟨hsum.trans hlen.symm, hlen.symm ▸ Nat.pos_of_ne_zero h0,
      (BitVec.toNat_ofNat _ _).trans (Nat.mod_eq_of_lt hcount)⟩

theorem balanced_encLoadLoop {cs k : Nat} (hp : s.phase = .idle) (hsum : freqSum s.freq = k) (hk : k < 2 ^ 32) :
    (encLoadLoop cs k s).Meets (balancedPost LoadBalanced) := by
  unfold encLoadLoop
  split
  · rintro _ _ ⟨⟩
    exact hsum
  · exact balanced_encLoadFinish hp hsum hk

theorem balanced_encLoadStart (hp : s.phase = .idle) : (encLoadStart s).Meets (balancedPost LoadBalanced) :=
  balanced_encLoadLoop hp freqSum_zero (by decide)

theorem balanced_encLoadGot {cs k : Nat} (hp : s.phase = .idle) (hsum : freqSum s.freq = k) (hk : k + 1 < 2 ^ 32)
    (b : Option Byte) : (encLoadGot cs k b s).Meets (balancedPost LoadBalanced) := by
  cases b with
  | none => exact balanced_encLoadFinish hp hsum (Nat.lt_of_succ_lt hk)
  | some b =>
    simp only [encLoadGot]
    cases hw : memWrite .chunk k b s with
    | error f => trivial
    | ok t =>
      obtain ⟨-, rfl⟩ := memWrite_ok.mp hw
      subst hsum
      exact balanced_encLoadLoop hp (freqSum_count b hk) hk

/-- CT_GEN leaves what R161 speaks of alone. -/
theorem balanced_ctGenBody (h : Accounted s) : (ctGenBody s).Meets (balancedPost Accounted) := by
  unfold ctGenBody
  dsimp only
  split
  · trivial
  · exact h

theorem balanced_emitDictStart (h : Accounted s) : (emitDictStart s).Meets (balancedPost D) := fun _ => h

theorem balanced_packStart (h : Balanced s) : (packStart s).Meets (balancedPost D) := by
  unfold packStart
  cases memReadList .chunk s s.curLen.toNat 0 with
  | error f => trivial
  | ok chunk => exact h

theorem balanced_afterLoad (h : LoadBalanced s) : (afterLoad s).Meets (balancedPost Balanced) := by
  unfold afterLoad
  split
  · exact h.balanced
  · next hlen =>
    have hs : Accounted s := h.resolve_left fun hidle => hlen hidle.2
    have htree : (tbBuildBody s).Meets (balancedPost Accounted) := hs
    exact balanced_andThen (balanced_andThen htree fun _ => balanced_ctGenBody) fun _ => balanced_emitDictStart

theorem balanced_encLoadStart_andThen (hp : s.phase = .idle) :
    ((encLoadStart s).andThen afterLoad).Meets (balancedPost Balanced) :=
  balanced_andThen (balanced_encLoadStart hp) fun _ => balanced_afterLoad

/-! ### The commands of the encoder, NOP and CLEAR -/

/-- The commands of the decoder (R111). -/
def isDecoder (i : Instr) : Bool :=
  i = .decReadCount || i = .decReadEntries || i = .decReadMeta || i = .buReadPayload || i = .decDecode ||
    i = .decChunk || i = .decAll

variable {i : Instr}

/-- The Body a command begins with, in a phase it may run in. -/
theorem balanced_bodyOf (h : Balanced s) (hi : isDecoder i = false) (hphase : allowedIn i s.phase = true) :
    (bodyOf i s).Meets (balancedPost Balanced) := by
  have hs {p : Phase} (hp : decide (s.phase = p) = true) (hchunk : p.hasChunk = true) : Accounted s :=
    h (of_decide_eq_true hp ▸ hchunk)
  cases i with
  | nop => exact h
  | clear => exact balanced_of_noChunk rfl rfl
  | encLoad => exact balanced_mono (balanced_encLoadStart (of_decide_eq_true hphase)) fun _ => LoadBalanced.balanced
  | tbBuild => exact fun _ => hs hphase rfl
  | ctGen => exact balanced_mono (balanced_ctGenBody (hs hphase rfl)) fun _ hu _ => hu
  | encEmitDict => exact balanced_emitDictStart (hs hphase rfl)
  | bpPack => exact balanced_packStart h
  | encChunk | encAll => exact balanced_encLoadStart_andThen (of_decide_eq_true hphase)
  | decReadCount | decReadEntries | decReadMeta | buReadPayload | decDecode | decChunk | decAll => cases hi

/-- What follows ENC_LOAD's Body. -/
theorem balanced_next_load (hb : hasBody i .load = true) (h : LoadBalanced s) :
    (nextOf i .load s).Meets (balancedPost Balanced) := by
  cases i with
  | encLoad => exact h.balanced
  | encChunk | encAll => exact balanced_afterLoad h
  | nop | clear | tbBuild | ctGen | encEmitDict | bpPack | decReadCount | decReadEntries | decReadMeta | buReadPayload
  | decDecode | decChunk | decAll => cases hb

/-- What follows ENC_EMIT_DICT's Body. -/
theorem balanced_next_dict (hb : hasBody i .dict = true) (h : Balanced s) :
    (nextOf i .dict s).Meets (balancedPost Balanced) := by
  cases i with
  | encEmitDict => exact h
  | encChunk | encAll => exact balanced_packStart h
  | nop | clear | tbBuild | ctGen | encLoad | bpPack | decReadCount | decReadEntries | decReadMeta | buReadPayload
  | decDecode | decChunk | decAll => cases hb

/-- What follows BP_PACK's Body. -/
theorem balanced_next_pack (hb : hasBody i .pack = true) (hp : s.phase = .idle) :
    (nextOf i .pack s).Meets (balancedPost Balanced) := by
  cases i with
  | bpPack | encChunk => exact balanced_of_noChunk hp rfl
  | encAll => exact balanced_encLoadStart_andThen hp
  | nop | clear | tbBuild | ctGen | encLoad | encEmitDict | decReadCount | decReadEntries | decReadMeta | buReadPayload
  | decDecode | decChunk | decAll => cases hb

/-! ### The commands of the decoder -/

/-- The Bodies of a decoder's command run while no chunk of the encoder is loaded (R113). -/
theorem body_of_isDecoder {b : Body} (hi : isDecoder i = true) (hb : hasBody i b = true) :
    b ≠ .load ∧ b.phase.hasChunk = false := by
  revert hi hb
  cases i <;> cases b <;> decide

theorem hasChunk_of_commandLeaves {p : Phase} {u : State} (hi : isDecoder i = true) (h : commandLeaves p i u) :
    u.phase.hasChunk = false := by
  cases i with
  | nop | clear | encLoad | tbBuild | ctGen | encEmitDict | bpPack | encChunk | encAll => cases hi
  | decReadCount => rcases h with ⟨h, -⟩ | h <;> rw [h] <;> rfl
  | decReadEntries | decReadMeta | buReadPayload | decDecode | decChunk | decAll =>
    rw [show u.phase = _ from h]; rfl

end

/-- A command of the decoder loads no chunk: the phase it arrives in says so. -/
theorem balanced_compute_of_isDecoder {i : Instr} {s : State} {r : Run} (h : Inv s) (hr : s.run = some r)
    (hd : decode r.word = .ok i) (hi : isDecoder i = true) :
    (compute i (bodyOf i) (nextOf i) s).Meets (balancedPost Balanced) := by
  have hkept := kept_compute h hr hd
  have hends := endsIn_compute h hr hd
  generalize compute i (bodyOf i) (nextOf i) s = req at hkept hends
  cases req with
  | pop u site =>
    rintro cs k rfl
    exact absurd rfl (body_of_isDecoder hi hkept.1).1
  | push u site b rest => exact balanced_of_noChunk hkept.2.phase (body_of_isDecoder hi hkept.1).2
  | done u => exact balanced_of_noChunk rfl (hasChunk_of_commandLeaves hi hends)
  | error u c => trivial
  | fault f => trivial

/-! ### The engine's steps -/

/-- An encoder's command that waits on an InPop is in ENC_LOAD's Body. -/
theorem load_of_not_isDecoder {i : Instr} {site : PopSite} (hi : isDecoder i = false)
    (hb : hasBody i site.body = true) : ∃ cs k, site = .load cs k := by
  cases site with
  | load cs k => exact ⟨cs, k, rfl⟩
  | count | entry | bitLen | byteLen | payload => revert hi hb; cases i <;> exact nofun

/-- Wherever a command of the running word arrives, the books balance. -/
theorem balanced_compute {i : Instr} {s : State} {r : Run} (h : Inv s) (hc : Conserved s) (hr : s.run = some r)
    (hd : decode r.word = .ok i) : (compute i (bodyOf i) (nextOf i) s).Meets (balancedPost Balanced) := by
  rcases hi : isDecoder i with _ | _
  swap
  · exact balanced_compute_of_isDecoder h hr hd hi
  have hbal : Balanced s := balanced_iff.mpr hc.loaded
  have hhas := hasPoint_of_inv h hr hd
  have hok := pointOk_of_inv h
  unfold compute
  split
  next hp =>
    split
    · next hphase => exact balanced_bodyOf hbal hi hphase
    · trivial
  next site b hp =>
    rw [hp] at hhas hok
    obtain ⟨cs, k, rfl⟩ := load_of_not_isDecoder hi hhas
    obtain ⟨hphase, hk, hcs⟩ := hok
    have hmax := ((params_wellFormed_iff s.cfg).mp h.sized.cfg).2.1
    have hsum : freqSum s.freq = k := hc.loading r.word cs k b (by rw [hr, ← hp, point_eq hr])
    exact balanced_andThen (balanced_encLoadGot hphase hsum (by omega) b) fun _ => balanced_next_load hhas
  next site rest hp =>
    rw [hp] at hhas hok
    cases site with
    | dict =>
      have hs : Accounted s := hbal (by rw [show s.phase = .eCodes from hok]; rfl)
      have hpush : (afterPush .dict rest s).Meets (balancedPost Balanced) :=
        balanced_emit .dict rest hbal fun _ => hs
      exact balanced_andThen hpush fun _ => balanced_next_dict hhas
    | pack =>
      have hpush : (afterPush .pack rest s).Meets (balancedPost (·.phase = .idle)) :=
        balanced_emit .pack rest hbal rfl
      exact balanced_andThen hpush fun _ => balanced_next_pack hhas
    | decoded => revert hi hhas; cases i <;> exact nofun

/-- The books balance at an InPop that a command waits on. -/
theorem conserved_popped {u : State} {site : PopSite} {b : Option Byte} (hphase : u.phase = site.body.phase)
    (hsum : ∀ cs k, site = .load cs k → freqSum u.freq = k) : Conserved (u.goto (.popped site b)) where
  loaded := balanced_iff.mp (balanced_of_noChunk hphase (by cases site <;> rfl))
  loading w cs k c hrun := by
    obtain ⟨r, -, hpoint⟩ := Option.map_eq_some_iff.mp hrun
    obtain ⟨-, hpoint⟩ := Run.mk.inj hpoint
    exact hsum cs k (Point.popped.inj hpoint).1

/-- The books balance where a command does not wait on an InPop. -/
theorem Balanced.conserved {u : State} (h : Balanced u) (hrun : ∀ w site b, u.run ≠ some ⟨w, .popped site b⟩) :
    Conserved u where
  loaded := balanced_iff.mp h
  loading w _ _ b hr := absurd hr (hrun w _ b)

theorem conserved_raiseError (c : ErrCode) (s : State) : Conserved (s.raiseError c) :=
  (balanced_of_noChunk (p := .error) rfl rfl).conserved nofun

/-- One engine step of the running command keeps conservation. -/
theorem exec_keeps_conserved {i : Instr} {s t : State} {r : Run} (h : Inv s) (hc : Conserved s) (hr : s.run = some r)
    (hd : decode r.word = .ok i) (ht : exec i s = .next t) : Conserved t := by
  have hends := exec_ends ht
  rw [accept_of_run hr] at hends
  have hkept := kept_compute h hr hd
  have hbal := balanced_compute h hc hr hd
  generalize compute i (bodyOf i) (nextOf i) s = req at hends hkept hbal
  cases hends with
  | byte | eof => exact conserved_popped hkept.2.1.phase hbal
  | push =>
    refine Balanced.conserved hbal fun w site b hrun => ?_
    obtain ⟨r, -, hpoint⟩ := Option.map_eq_some_iff.mp hrun
    cases (Run.mk.inj hpoint).2
  | popHold | pushHold => exact hc
  | done => exact Balanced.conserved hbal nofun
  | error => exact conserved_raiseError _ _

/-- The engine's turn keeps conservation. -/
theorem engineTurn_keeps_conserved {s t : State} (h : Inv s) (hc : Conserved s) (ht : engineTurn s = .next t) :
    Conserved t := by
  unfold engineTurn at ht
  split at ht
  · cases ht; exact hc
  split at ht
  · cases ht; exact hc
  · next i hf =>
    obtain ⟨r, hr, hd⟩ := Option.map_eq_some_iff.mp hf
    exact exec_keeps_conserved h hc hr hd ht
  · cases ht; exact conserved_raiseError _ _

/-! ### The host's moves -/

/-- Of what the host's side of the block uses, conservation says nothing. -/
theorem Conserved.hostSide {s : State} (h : Conserved s) {chunkSize : Word} {irqEn irqStatus : BitVec 2}
    {inClosed cmdDrop : Bool} {inFifo outFifo : List Byte} {free : Nat} {host : List Move} {replies : List Reply} :
    Conserved { s with
      chunkSize := chunkSize, irqEn := irqEn, irqStatus := irqStatus, inClosed := inClosed, cmdDrop := cmdDrop
      inFifo := inFifo, outFifo := outFifo, free := free, host := host, replies := replies } where
  loaded := h.loaded
  loading := h.loading

theorem writeCmd_keeps_conserved {s : State} (h : Conserved s) (w : Word) : Conserved (writeCmd w s) := by
  unfold writeCmd
  split
  · exact h.hostSide
  split
  · exact h.hostSide
  · exact { loaded := h.loaded, loading := nofun }

theorem writeCsr_keeps_conserved {s : State} (h : Conserved s) (a : Addr) (v : Word) : Conserved (writeCsr a v s) := by
  rcases writeCsr_cases a v s with he | ⟨-, ⟨-, he⟩ | ⟨-, he⟩ | ⟨-, he⟩ | ⟨-, he⟩ | ⟨-, he⟩⟩ <;> rw [he]
  · exact h
  · exact writeCmd_keeps_conserved h v
  · obtain ⟨inClosed, hframe⟩ := writeCtrl_frame v s
    rw [hframe]
    exact h.hostSide
  · obtain ⟨chunkSize, hframe⟩ := writeChunkSize_frame v s
    rw [hframe]
    exact h.hostSide
  · exact h.hostSide
  · exact h.hostSide

theorem readReply_keeps_conserved {s : State} (h : Conserved s) (a : Addr) : Conserved (readReply a s) := by
  unfold readReply
  rcases readCsr_state a s with he | he <;> rw [he]
  · exact h.hostSide
  · exact h.hostSide

/-- Reset leaves no chunk (spec/70_reset_and_hazards.md R350). -/
theorem conserved_resetBlock (s : State) (inReset : Bool) : Conserved { s.resetBlock with inReset := inReset } :=
  { conserved_resetOf s.cfg with }

/-- Every move of the host keeps conservation. -/
theorem act_keeps_conserved {s : State} (h : Conserved s) (m : Move) : Conserved (m.act s) := by
  cases m with
  | csrRead a => exact readReply_keeps_conserved h a
  | csrWrite a v => exact writeCsr_keeps_conserved h a v
  | send b last =>
    simp only [Move.act]
    split
    · exact h
    · exact h.hostSide
  | recv =>
    simp only [Move.act, recvByte]
    split
    · exact h.hostSide
    · exact h
  | waitIdle => exact readReply_keeps_conserved h _
  | waitIrq | engine => exact h
  | ackSameStep v => exact writeCsr_keeps_conserved h 0x0018#16 v
  | rstAssert => exact conserved_resetBlock s true
  | rstRelease => exact conserved_resetBlock s false

/-- Settles O60. ENC_LOAD counts each byte that it stores, what it leaves is accounted for, and the commands that follow
it leave the books alone. -/
theorem stepKeepsConservation : Obligations.StepKeepsConservation := by
  intro s t h hc ht
  rcases step_cases s with ⟨-, he⟩ | ⟨m, rest, -, ⟨-, -, he⟩ | ⟨hready, -, he⟩ | ⟨-, he⟩⟩ <;> rw [he] at ht
  · exact engineTurn_keeps_conserved h hc ht
  · cases ht
    exact act_keeps_conserved hc.hostSide m
  · exact engineTurn_keeps_conserved (act_keeps_inv h.hostSide ((ready_withHost m s rest).trans hready))
      (act_keeps_conserved hc.hostSide m) ht
  · exact engineTurn_keeps_conserved h hc ht

end Sys2Proof.Machine
end

/-! ## TB_BUILD: PopMin, the merge loop and the tree of the chunk (spec/42_tree_builder.md R200 to R205) -/

section
namespace Sys2Proof.Machine

/-! ### PopMin (R202) -/

theorem Tree.before_iff {x y : Tree} :
    x.before y = true ↔ x.freq < y.freq ∨ (x.freq = y.freq ∧ x.key < y.key) := by
  simp [Tree.before]

theorem Tree.before_trans {x y z : Tree} (hxy : x.before y = true) (hyz : y.before z = true) : x.before z = true := by
  rw [Tree.before_iff] at *
  omega

/-- Of two nodes with different keys one is before the other. -/
theorem Tree.before_of_not_before {x y : Tree} (h : ¬ x.before y = true) (hkey : x.key ≠ y.key) :
    y.before x = true := by
  rw [Tree.before_iff] at *
  omega

/-- The node that PopMin takes is before all others, where no two keys are equal. -/
theorem popMin_before {x : Tree} {q : List Tree} (h : ((x :: q).map Tree.key).Nodup) :
    ∀ z ∈ (popMin x q).2, (popMin x q).1.before z = true := by
  induction q generalizing x with
  | nil => exact List.forall_mem_nil _
  | cons y q ih =>
    obtain ⟨hx, hq⟩ := List.nodup_cons.mp h
    have hleast := ih hq
    have hperm := popMin_perm y q
    unfold popMin
    split
    · next hbefore =>
      intro z hz
      rcases List.mem_cons.mp (hperm.mem_iff.mpr hz) with rfl | hz
      · exact hbefore
      · exact Tree.before_trans hbefore (hleast z hz)
    · next hbefore =>
      have hkey : x.key ≠ (popMin y q).1.key := fun he =>
        hx (he ▸ List.mem_map_of_mem (hperm.subset List.mem_cons_self))
      exact List.forall_mem_cons.mpr ⟨Tree.before_of_not_before hbefore hkey, hleast⟩

/-! ### A merge (R203) -/

/-- One turn of the loop pops two nodes and puts their merge back. -/
theorem mergeAll_turn (turns m : Nat) (a b : Tree) (q : List Tree) :
    ∃ (x c : Tree) (q1 : List Tree), popMin a (b :: q) = (x, c :: q1) ∧
      mergeAll (turns + 1) m (a :: b :: q) =
        mergeAll turns (m + 1) (mergeNode m x (popMin c q1).1 :: (popMin c q1).2) := by
  have hlen := (popMin_perm a (b :: q)).length_eq
  rw [mergeAll]
  split
  · next x hx => simp [hx] at hlen
  · next x c q1 hx => exact ⟨x, c, q1, hx, rfl⟩

/-- The popped nodes and the others are the nodes of the queue. -/
theorem popMin_twice_perm {a b x c : Tree} {q q1 : List Tree} (h : popMin a (b :: q) = (x, c :: q1)) :
    (x :: (popMin c q1).1 :: (popMin c q1).2).Perm (a :: b :: q) := by
  have hfirst : (x :: c :: q1).Perm (a :: b :: q) := by simpa [h] using popMin_perm a (b :: q)
  exact ((popMin_perm c q1).cons x).trans hfirst

/-- Settles O29. The second PopMin is on the nodes that the first left. -/
theorem popMinAndMerge : Obligations.PopMinAndMerge := by
  refine ⟨fun x q h => ⟨popMin_perm x q, fun y hy => Tree.before_iff.mp (popMin_before h y hy)⟩,
    fun turns m a b q h => ?_⟩
  obtain ⟨x, c, q1, hx, hturn⟩ := mergeAll_turn turns m a b q
  have hperm := popMin_perm a (b :: q)
  have hfirst := popMin_before h
  rw [hx] at hperm hfirst
  have hkeys : ((c :: q1).map Tree.key).Nodup := ((hperm.map Tree.key).nodup_iff.mpr h).of_cons
  exact ⟨x, (popMin c q1).1, (popMin c q1).2, popMin_twice_perm hx,
    fun z hz => hfirst z ((popMin_perm c q1).mem_iff.mp hz), popMin_before hkeys, hturn⟩

/-- What a merge of any two nodes of the queue keeps, the loop keeps. -/
theorem mergeAll_keeps {P : List Tree → Prop}
    (hmerge : ∀ m x y others q, (x :: y :: others).Perm q → P q → P (mergeNode m x y :: others))
    (turns m : Nat) {q : List Tree} (h : P q) : P (mergeAll turns m q) := by
  induction turns generalizing m q with
  | zero => exact h
  | succ turns ih =>
    rcases q with _ | ⟨a, _ | ⟨b, q⟩⟩
    · exact h
    · exact h
    · obtain ⟨x, c, q1, hx, hturn⟩ := mergeAll_turn turns m a b q
      rw [hturn]
      exact ih _ (hmerge _ _ _ _ _ (popMin_twice_perm hx) h)

/-- As many turns as the queue has nodes leave one node. -/
theorem mergeAll_eq_singleton {turns : Nat} (m : Nat) {q : List Tree} (hne : q ≠ []) (hturns : q.length ≤ turns) :
    ∃ root, mergeAll turns m q = [root] := by
  induction turns generalizing m q with
  | zero => exact absurd (List.length_eq_zero_iff.mp (Nat.le_zero.mp hturns)) hne
  | succ turns ih =>
    rcases q with _ | ⟨a, _ | ⟨b, q⟩⟩
    · exact absurd rfl hne
    · exact ⟨a, rfl⟩
    · obtain ⟨x, c, q1, hx, hturn⟩ := mergeAll_turn turns m a b q
      have hlen := (popMin_twice_perm hx).length_eq
      rw [hturn]
      refine ih _ (List.cons_ne_nil _ _) ?_
      simp only [List.length_cons] at *
      omega

/-! ### A tree made by merges -/

/-- Leaves joined by merges: every inner node has two children, whose frequencies sum to its own. -/
def Tree.Merged : Tree → Prop
  | .leaf _ _ _ => True
  | .single _ _ _ => False
  | .node l r f _ => l.Merged ∧ r.Merged ∧ f = l.freq + r.freq

theorem Tree.Merged.mergeNode {x y : Tree} (hx : x.Merged) (hy : y.Merged) (m : Nat) :
    (mergeNode m x y).Merged :=
  ⟨hy, hx, Nat.add_comm _ _⟩

theorem Tree.Merged.freq_eq_leafSum {t : Tree} (h : t.Merged) : t.freq = t.leafSum := by
  induction t with
  | leaf sym f k => rfl
  | single c f k ih => exact h.elim
  | node l r f k ihl ihr =>
    obtain ⟨hl, hr, hf⟩ := h
    simp only [Tree.freq, Tree.leafSum, hf, ← ihl hl, ← ihr hr]

theorem Tree.Merged.sumsOk {t : Tree} (h : t.Merged) : t.SumsOk := by
  induction t with
  | leaf sym f k => trivial
  | single c f k ih => exact h.elim
  | node l r f k ihl ihr =>
    obtain ⟨hl, hr, hf⟩ := h
    exact ⟨ihl hl, ihr hr, by rw [hf, hl.freq_eq_leafSum, hr.freq_eq_leafSum]⟩

/-- A merge takes one node away, so the leaves are one more than the merges. -/
theorem Tree.Merged.length_symbols {t : Tree} (h : t.Merged) : t.symbols.length = t.merges + 1 := by
  induction t with
  | leaf sym f k => rfl
  | single c f k ih => exact h.elim
  | node l r f k ihl ihr =>
    obtain ⟨hl, hr, -⟩ := h
    rw [Tree.symbols_node, List.length_append, ihl hl, ihr hr, Tree.merges]
    omega

theorem Tree.Merged.nodes_eq {t : Tree} (h : t.Merged) : t.nodes = 2 * t.merges + 1 := by
  induction t with
  | leaf sym f k => rfl
  | single c f k ih => exact h.elim
  | node l r f k ihl ihr =>
    obtain ⟨hl, hr, -⟩ := h
    rw [Tree.nodes, Tree.merges, ihl hl, ihr hr]
    omega

/-- Every step down from the root leaves one merge behind. -/
theorem Tree.Merged.depth_le {t : Tree} (h : t.Merged) {p : Bits} {l : Byte × Bits} (hl : l ∈ t.paths p) :
    l.2.length ≤ p.length + t.merges := by
  induction t generalizing p with
  | leaf sym f k =>
    obtain rfl := List.mem_singleton.mp hl
    exact Nat.le_refl _
  | single c f k ih => exact h.elim
  | node left right f k ihl ihr =>
    obtain ⟨hleft, hright, -⟩ := h
    rw [Tree.merges]
    rcases List.mem_append.mp hl with hl | hl
    · exact (ihl hleft hl).trans (by simp only [List.length_append, List.length_singleton]; omega)
    · exact (ihr hright hl).trans (by simp only [List.length_append, List.length_singleton]; omega)

/-- Where there was a merge, the root is no leaf. -/
theorem Tree.Merged.depth_pos {t : Tree} (h : t.Merged) (hm : 1 ≤ t.merges) {l : Byte × Bits}
    (hl : l ∈ t.paths []) : 1 ≤ l.2.length := by
  cases t with
  | leaf sym f k => exact absurd hm (Nat.not_succ_le_zero 0)
  | single c f k => exact h.elim
  | node left right f k =>
    rcases List.mem_append.mp hl with hl | hl
    · exact (Tree.prefix_of_mem_paths hl).length_le
    · exact (Tree.prefix_of_mem_paths hl).length_le

theorem mergeAll_merged (turns m : Nat) {q : List Tree} (h : ∀ t ∈ q, t.Merged) :
    ∀ t ∈ mergeAll turns m q, t.Merged := by
  refine mergeAll_keeps (P := fun q => ∀ t ∈ q, t.Merged) (fun m x y others q hperm hq => ?_) turns m h
  have hall := fun t ht => hq t (hperm.subset ht)
  simp only [List.forall_mem_cons] at hall ⊢
  obtain ⟨hx, hy, hothers⟩ := hall
  exact ⟨hx.mergeNode hy m, hothers⟩

/-- Merging keeps the sum of the frequencies in the queue. -/
theorem mergeAll_freq_sum (turns m : Nat) (q : List Tree) :
    ((mergeAll turns m q).map Tree.freq).sum = (q.map Tree.freq).sum := by
  refine mergeAll_keeps (P := fun q' => (q'.map Tree.freq).sum = (q.map Tree.freq).sum)
    (fun m x y others q' hperm hq' => ?_) turns m rfl
  rw [← hq', ← (hperm.map Tree.freq).sum_eq]
  simp [mergeNode, Tree.freq, Nat.add_assoc]

/-! ### The tree of the frequencies (R200, R201) -/

/-- The symbols that are not present add nothing to the sum of the frequencies. -/
theorem sum_present (freq : Table Word) :
    ((present freq).map fun s => (Table.entry freq s).toNat).sum = freqSum freq := by
  rw [freqSum_eq, ← List.sum_toFinset _ ((present_sorted freq).imp Nat.ne_of_lt), present_eq, List.toFinset_filter,
    List.toFinset_range]
  refine Finset.sum_filter_of_ne fun s _ hs => decide_eq_true fun he => hs ?_
  rw [he]
  rfl

theorem buildQueue_of_single {freq : Table Word} {sym : Nat} (h : present freq = [sym]) :
    buildQueue freq = [.single (leafOf freq sym) (Table.entry freq sym).toNat 256] := by
  simp [buildQueue, h]

theorem buildQueue_of_two {freq : Table Word} (h : 2 ≤ (present freq).length) :
    buildQueue freq = mergeAll (present freq).length 0 ((present freq).map (leafOf freq)) := by
  unfold buildQueue
  split
  · next s hs => simp [hs] at h
  · rfl

/-- Settles O30. The leaf is R201's single child, one step to the left below the root. -/
theorem oneSymbolGetsCodewordZero : Obligations.OneSymbolGetsCodewordZero := by
  intro freq sym h
  rw [buildQueue_of_single h]
  exact ⟨rfl, rfl⟩

/-- With two symbols or more, the loop leaves one tree, whose frequency is the sum of all frequencies (R203, R205). -/
theorem buildQueue_merged {freq : Table Word} (h : 2 ≤ (present freq).length) :
    ∃ root : Tree, buildQueue freq = [root] ∧ root.Merged ∧ root.freq = freqSum freq := by
  have hne : (present freq).map (leafOf freq) ≠ [] := by
    intro he
    simp [List.map_eq_nil_iff.mp he] at h
  obtain ⟨root, hroot⟩ := mergeAll_eq_singleton (turns := (present freq).length) 0 hne (by simp)
  have hmerged := mergeAll_merged (present freq).length 0 (q := (present freq).map (leafOf freq))
    (List.forall_mem_map.mpr fun _ _ => trivial)
  have hsum := mergeAll_freq_sum (present freq).length 0 ((present freq).map (leafOf freq))
  rw [hroot] at hmerged hsum
  refine ⟨root, (buildQueue_of_two h).trans hroot, hmerged root List.mem_cons_self, ?_⟩
  rw [← sum_present]
  simpa [Function.comp_def, leafOf, Tree.freq] using hsum

/-- The root's leaves are those of the symbols present, each in one leaf (R205). -/
theorem symbols_perm_present {freq : Table Word} {root : Tree} (h : buildQueue freq = [root]) :
    ((root.paths []).map fun l => l.1.toNat).Perm (present freq) := by
  have hperm := (buildQueue_symbols_perm freq).map BitVec.toNat
  have hnum : ((present freq).map (BitVec.ofNat 8)).map BitVec.toNat = present freq := by
    rw [List.map_map]
    exact (List.map_congr_left fun s hs => toNat_ofNat_symbol (mem_present.mp hs).1).trans (List.map_id _)
  rw [h, hnum] at hperm
  simpa [Tree.symbols, Function.comp_def] using hperm

/-! ### TB_BUILD (R200, R205) -/

/-- Settles O28. TB_BUILD's Body is its end. -/
theorem tbBuildCompletes : Obligations.TbBuildCompletes := fun _ hs hphase =>
  exec_atStart hs (decide_eq_true hphase)

/-- A chunk has a symbol, since its frequencies do not sum to 0 (R161). -/
theorem present_ne_nil {freq : Table Word} (h : 1 ≤ freqSum freq) : present freq ≠ [] := by
  intro he
  rw [← sum_present, he] at h
  exact Nat.not_succ_le_zero 0 h

/-- Settles O31. The root of one symbol is R201's; the tree of more symbols is made by merges, and the number of its
leaves gives the number of its merges and nodes and bounds its depth. -/
theorem treeOfTheChunk : Obligations.TreeOfTheChunk := by
  intro s t hc hphase hs ht
  obtain ⟨hsum, hpos, -⟩ := hc.loaded (.inl hphase)
  rw [tbBuildCompletes s hs hphase] at ht
  cases ht
  rw [← hsum] at hpos ⊢
  rcases hpresent : present s.freq with _ | ⟨sym, _ | ⟨sym', rest⟩⟩
  · exact absurd hpresent (present_ne_nil hpos)
  · have hqueue := buildQueue_of_single hpresent
    have hperm := symbols_perm_present hqueue
    have hfreq := sum_present s.freq
    rw [hpresent] at hperm hfreq
    refine ⟨_, congrArg List.head? hqueue, ⟨trivial, rfl⟩, hfreq, hperm, fun h => absurd h (by simp), ?_⟩
    exact List.forall_mem_singleton.mpr ⟨Nat.le_refl 1, .inr ⟨rfl, rfl⟩⟩
  · have htwo : 2 ≤ (present s.freq).length := by simp [hpresent]
    obtain ⟨root, hqueue, hmerged, hfreq⟩ := buildQueue_merged htwo
    have hperm := symbols_perm_present hqueue
    have hlen : root.merges + 1 = (present s.freq).length := by
      rw [← hmerged.length_symbols, ← hperm.length_eq, Tree.symbols, List.length_map, List.length_map]
    have hnodes := hmerged.nodes_eq
    rw [← hpresent]
    refine ⟨root, congrArg List.head? hqueue, hmerged.sumsOk, hfreq, hperm, fun _ => ⟨by omega, by omega⟩,
      fun l hl => ⟨hmerged.depth_pos (by omega) hl, .inl ?_⟩⟩
    have hdepth := hmerged.depth_le hl
    rw [List.length_nil] at hdepth
    omega

end Sys2Proof.Machine
end

/-! ## BP_PACK (spec/43_bit_packer.md R220, R221) -/

section
namespace Sys2Proof.Machine

/-- The bytes BP_PACK pushes for a chunk: BIT_LEN, BYTE_LEN and the payload (R220). -/
def packBytes (s : State) (chunk : List Byte) : List Byte :=
  be32 s.bitLen ++ be32 s.byteLen ++ packPayload s.codeLen s.codeVal chunk

theorem packBytes_length (s : State) (chunk : List Byte) :
    (packBytes s chunk).length = 8 + (packPayload s.codeLen s.codeVal chunk).length := by
  simp only [packBytes, List.length_append, be32_length]

theorem packBytes_ne_nil (s : State) (chunk : List Byte) : packBytes s chunk ≠ [] := List.cons_ne_nil _ _

/-- BP_PACK's Body pushes the lengths and the payload of CHUNK_BUF[0..CUR_LEN−1] (R220). -/
theorem packStart_eq_emit {s : State} {chunk : List Byte} (hcur : s.curLen.toNat ≤ s.cfg.maxChunk)
    (hchunk : chunk = (List.range s.curLen.toNat).map (s.bufByte .chunk)) :
    packStart s = emit .pack (packBytes s chunk) packFinish s := by
  rw [packStart, memReadList_ok (by simpa [bufSize] using hcur), ← List.range_eq_range', ← hchunk]
  rfl

/-- BP_PACK begins to push its bytes (R220). -/
theorem arrives_packStart {s : State} {chunk : List Byte} (hs : AtStart .bpPack s) (hphase : s.phase = .eDict)
    (hcur : s.curLen.toNat ≤ s.cfg.maxChunk)
    (hchunk : chunk = (List.range s.curLen.toNat).map (s.bufByte .chunk)) :
    Arrives .bpPack s (emit .pack (packBytes s chunk) packFinish (s.atPoint .bpPack .start)) :=
  arrives_atStart hs (decide_eq_true hphase) (packStart_eq_emit (s := s.atPoint .bpPack .start) hcur hchunk)

/-- Settles O39. The lengths and the payload are pushed one byte a step, and the step after the last of them
completes; the payload is the packing of the codewords by O38. -/
theorem bpPackEmitsThePayloadAndCompletes : Obligations.BpPackEmitsThePayloadAndCompletes := by
  have hlast (s : State) (hs : AtPoint .bpPack (.pushed .pack []) s) :
      exec .bpPack s = .next s.packDone.complete := (arrives_packDone hs).done
  refine ⟨hlast, fun s chunk hs hhost hreset hphase hcur hchunk hroom => ?_⟩
  have hpacked := payloadIsThePackingOfTheCodewords s.codeLen s.codeVal chunk
  refine ⟨packPayload s.codeLen s.codeVal chunk, hpacked, ?_⟩
  rw [← hpacked.1, Nat.add_assoc, ← packBytes_length] at hroom
  have hengaged : Engaged .bpPack s := ⟨⟨_, hs⟩, hhost, hreset⟩
  have hstart := engaged_atPoint hengaged .start
  have hpushed := run_emit hengaged hstart (arrives_packStart (.inr hs) hphase hcur hchunk)
    (packBytes_ne_nil s chunk) hroom
  rw [← packBytes_length, run_succ hpushed (engaged_emitted hstart) (hlast _ rfl)]
  rfl

end Sys2Proof.Machine
end

/-! ## DEC_DECODE is greedy decoding (spec/44_decoder.md R250 to R253; spec/45_bitstream_unpacker.md R291) -/

section
namespace Sys2Proof.Machine

/-! ### The last step (R250, R253) -/

/-- Settles O47. Both steps arrive at DEC_DECODE's end: after the last byte, and where there is no bit to decode. -/
theorem decDecodeCompletes : Obligations.DecDecodeCompletes := by
  refine ⟨fun s hs => (arrives_decodeDone hs).done, fun s hs hphase hbits => ?_⟩
  have hempty (u : State) (hu : u.bitLen = 0#32) : decodeStart u =
      .done { u with curLen := 0#32, chunkCount := u.chunkCount + 1, phase := .idle, cand := none } := by
    rw [decodeStart, hu]
    rfl
  exact (arrives_atStart hs (decide_eq_true hphase) (hempty (s.atPoint .decDecode .start) hbits)).done

/-- What follows DEC_DECODE's Body is the end of the command, or the first InPop of the next record (R258, R260). -/
theorem nextOf_decode {i : Instr} (hi : i = .decDecode ∨ i = .decChunk ∨ i = .decAll) (s : State) :
    nextOf i .decode s = .done s ∨
      nextOf i .decode s = .pop { s with curLen := 0#32, bitLen := 0#32, byteLen := 0#32 } (.count []) := by
  rcases hi with rfl | rfl | rfl
  · exact .inl rfl
  · exact .inl rfl
  · exact .inr rfl

/-- Settles O49. A step pushes the next byte, or holds; the step after the last byte counts the chunk and completes,
takes the next record's first byte or EOF, or holds. -/
theorem noErrorOnceDecodedBytesArePushed : Obligations.NoErrorOnceDecodedBytesArePushed := by
  intro i s t rest hi hs hphase h
  cases rest with
  | cons b tail =>
    have hbody : hasBody i .decode = true := by rcases hi with rfl | rfl | rfl <;> rfl
    obtain ⟨hpush, hhold⟩ := pushingStepsAppendInOrder i .decoded b tail s hbody hs
    rcases Nat.lt_or_ge s.outFifo.length s.cfg.outDepth with hroom | hfull
    · cases h.symm.trans (hpush hroom)
      exact ⟨hphase, .inl ⟨b, tail, rfl, .inr ⟨rfl, rfl⟩⟩⟩
    · cases h.symm.trans (hhold hfull)
      exact ⟨hphase, .inl ⟨b, tail, rfl, .inl rfl⟩⟩
  | nil =>
    rw [exec_eq_engineStep, engineStep_pushed hs] at h
    have hends : Ends s (nextOf i .decode s.decodeDone) t := ends_of_finishStep h
    rcases nextOf_decode hi s.decodeDone with hnext | hnext <;> rw [hnext] at hends
    · cases hends
      exact ⟨nofun, .inr ⟨rfl, .inr ⟨rfl, rfl⟩⟩⟩
    · cases hends with
      | popHold => exact ⟨hphase, .inr ⟨rfl, .inl rfl⟩⟩
      | byte | eof => exact ⟨nofun, .inr ⟨rfl, .inr ⟨rfl, rfl⟩⟩⟩

/-! ### Bit strings and the candidate (spec/00_scope.md R17, spec/10_state.md R59) -/

theorem bitsVal_append (s t : Bits) : bitsVal (s ++ t) = bitsVal s * 2 ^ t.length + bitsVal t := by
  induction t using List.reverseRecOn with
  | nil => simp [bitsVal]
  | append_singleton t b ih =>
    rw [← List.append_assoc, bitsVal_append_single, ih, bitsVal_append_single, List.length_append,
      List.length_singleton, Nat.pow_succ]
    ring

/-- val(str_L(v)) is the remainder of v by 2^L (R17). -/
theorem bitsVal_bitsOf (L : Nat) (v : Word) : bitsVal (bitsOf L v) = v.toNat % 2 ^ L := by
  induction L with
  | zero => simp [bitsOf, bitsVal, Nat.mod_one]
  | succ L ih =>
    have hsucc : bitsOf (L + 1) v = [v.getLsbD L] ++ bitsOf L v := by simp [bitsOf, List.range_succ]
    rw [hsucc, bitsVal_append, ih, bitsOf_length, Nat.mod_pow_succ, ← Nat.toNat_testBit, BitVec.getLsbD, Nat.mul_comm,
      Nat.add_comm]
    simp [bitsVal]

/-- The bit string of a masked value is `c` where length and value are those of `c`. -/
theorem bitsOf_eq_iff {L : Nat} {v : Word} {c : Bits} (hL : L ≤ 32) (hv : v.toNat < 2 ^ L) :
    bitsOf L v = c ↔ L = c.length ∧ v.toNat = bitsVal c := by
  constructor
  · rintro rfl
    exact ⟨(bitsOf_length L v).symm, by rw [bitsVal_bitsOf, Nat.mod_eq_of_lt hv]⟩
  · rintro ⟨rfl, hval⟩
    have hword : v = BitVec.ofNat 32 (bitsVal c) := by rw [← hval, BitVec.ofNat_toNat, BitVec.setWidth_eq]
    rw [hword, bitsOf_bitsVal c hL]

/-- The candidate with the bits `c`. -/
def Cand.ofBits (c : Bits) : Cand := { cl := c.length, cv := bitsVal c }

theorem Cand.ofBits_append (c : Bits) (b : Bool) : (Cand.ofBits c).append b = Cand.ofBits (c ++ [b]) := by
  simp [Cand.ofBits, Cand.append, bitsVal_append_single]

/-! ### The inverse dictionary (R251) -/

/-- The entries of the dictionary are masked to their lengths, which are at most 32 (R243, R245). -/
def DictMasked (s : State) : Prop :=
  ∀ i < s.dictCount.toNat, (Table.entry s.dictLen i).toNat ≤ 32 ∧
    (Table.entry s.dictVal i).toNat < 2 ^ (Table.entry s.dictLen i).toNat

/-- The lookup by length and value is the lookup by the bit string. -/
theorem dictLookup_ofBits {s : State} (h : DictMasked s) (c : Bits) :
    dictLookup (Cand.ofBits c) s = s.inverseDict c := by
  unfold dictLookup State.inverseDict
  congr 1
  refine List.find?_congr fun i hi => ?_
  obtain ⟨hlen, hval⟩ := h i (List.mem_range.mp hi)
  rw [Bool.eq_iff_iff, Bool.and_eq_true, decide_eq_true_iff, decide_eq_true_iff, decide_eq_true_iff,
    bitsOf_eq_iff hlen hval]
  rfl

/-- No entry is longer than 32 bits. -/
theorem inverseDict_of_long {s : State} (h : DictMasked s) {c : Bits} (hc : 32 < c.length) :
    s.inverseDict c = none := by
  rw [State.inverseDict, Option.map_eq_none_iff, List.find?_eq_none]
  intro i hi heq
  have hlen := (h i (List.mem_range.mp hi)).1
  rw [← of_decide_eq_true heq, bitsOf_length] at hc
  omega

/-- A candidate of 32 bits that is not empty is left over at the end. -/
theorem greedy_of_long {dict : Bits → Option Byte} (hdict : ∀ c : Bits, 32 < c.length → dict c = none) (rest : Bits)
    {c : Bits} (hc : 32 ≤ c.length) : greedy dict c rest = ([], false) := by
  induction rest generalizing c with
  | nil =>
    cases c with
    | nil => cases hc
    | cons b c => rfl
  | cons b rest ih =>
    rw [greedy, hdict (c ++ [b]) (by simp; omega)]
    exact ih (by simp; omega)

/-! ### R250's loop -/

/-- `todo` bits of the payload, from bit `j` on (R291). -/
def State.payloadFrom (s : State) (j todo : Nat) : Bits :=
  (List.range' j todo).map fun j => byteBit (s.bufByte .payload (j / 8)) j

theorem payloadString_eq (s : State) : s.payloadString = s.payloadFrom 0 s.bitLen.toNat := by
  rw [State.payloadString, State.payloadFrom, List.range_eq_range']

theorem payloadFrom_succ (s : State) (j todo : Nat) :
    s.payloadFrom j (todo + 1) = byteBit (s.bufByte .payload (j / 8)) j :: s.payloadFrom (j + 1) todo := by
  simp [State.payloadFrom, List.range'_succ]

theorem payloadBit_ok {s : State} {j : Nat} (h : j < 8 * s.cfg.payloadBytes) :
    payloadBit j s = .ok (byteBit (s.bufByte .payload (j / 8)) j) := by
  rw [payloadBit, memRead_ok.mpr ⟨show j / 8 < s.cfg.payloadBytes by omega, rfl⟩]

/-- `s` with the bytes `out` stored in CHUNK_BUF from index `k` on, and an empty candidate. -/
def State.decodedFrom (s : State) (k : Nat) (out : List Byte) : State :=
  { s with chunkBuf := storeBytes s.chunkBuf k out, cand := some Cand.empty }

/-- Where R250's loop arrives from `s`, with `k` bytes decoded and `result` what greedy decoding gives for the rest. -/
structure DecodeEnds (s : State) (k : Nat) (result : List Byte × Bool) (r : Request) : Prop where
  tooLarge  : s.cfg.maxChunk < k + result.1.length → ∃ u, r = .error u .outputTooLarge
  unmatched : k + result.1.length ≤ s.cfg.maxChunk → result.2 = false → ∃ u, r = .error u .unmatchedBits
  clean     : k + result.1.length ≤ s.cfg.maxChunk → result.2 = true →
    r = decodeEmit (k + result.1.length) (s.decodedFrom k result.1)

/-- Of the candidate in `s` the loop's end says nothing. -/
theorem DecodeEnds.withCand {s : State} {k : Nat} {result : List Byte × Bool} {r : Request} {c : Option Cand}
    (h : DecodeEnds { s with cand := c } k result r) : DecodeEnds s k result r :=
  ⟨h.tooLarge, h.unmatched, h.clean⟩

/-- A candidate is left over, and no byte more is decoded. -/
theorem decodeEnds_unmatched {s : State} {k : Nat} (u : State) (hk : k ≤ s.cfg.maxChunk) :
    DecodeEnds s k ([], false) (.error u .unmatchedBits) where
  tooLarge h := absurd h (Nat.not_lt.mpr hk)
  unmatched _ _ := ⟨u, rfl⟩
  clean _ h := nomatch h

/-- One byte more is decoded where there is room for it. -/
theorem DecodeEnds.cons {s : State} {k : Nat} {sym : Byte} {result : List Byte × Bool} {r : Request}
    (h : DecodeEnds (s.decodedFrom k [sym]) (k + 1) result r) : DecodeEnds s k (sym :: result.1, result.2) r := by
  have hlen : k + (sym :: result.1).length = k + 1 + result.1.length := by rw [List.length_cons]; omega
  refine ⟨fun hlt => h.tooLarge (hlen ▸ hlt), fun hle => h.unmatched (hlen ▸ hle), fun hle hclean => ?_⟩
  rw [h.clean (hlen ▸ hle) hclean, hlen]
  rfl

/-- A byte more is decoded, and CHUNK_BUF is full. -/
theorem decodeEnds_tooLarge {s : State} {k : Nat} {sym : Byte} {out : List Byte} {clean : Bool} (u : State)
    (hk : s.cfg.maxChunk ≤ k) : DecodeEnds s k (sym :: out, clean) (.error u .outputTooLarge) := by
  have hlt : s.cfg.maxChunk < k + (sym :: out).length := by rw [List.length_cons]; omega
  exact ⟨fun _ => ⟨u, rfl⟩, fun hle => absurd hle (Nat.not_le.mpr hlt), fun hle => absurd hle (Nat.not_le.mpr hlt)⟩

/-- R250's loop is greedy decoding: `c` are the bits of the candidate. -/
theorem decodeLoop_ends {todo j k : Nat} {s : State} {c : Bits} (hdict : DictMasked s)
    (hbits : j + todo ≤ 8 * s.cfg.payloadBytes) (hk : k ≤ s.cfg.maxChunk) (hc : s.cand = some (Cand.ofBits c)) :
    DecodeEnds s k (greedy s.inverseDict c (s.payloadFrom j todo)) (decodeLoop todo j k s) := by
  induction todo generalizing j k s c with
  | zero =>
    have hcand : s.candidate = Cand.ofBits c := by rw [State.candidate, hc]
    rw [decodeLoop, hcand]
    cases c with
    | nil =>
      have hsame : s.decodedFrom k [] = s := by
        rw [State.decodedFrom, ← show Cand.ofBits [] = Cand.empty from rfl, ← hc, storeBytes]
      exact ⟨fun h => absurd h (Nat.not_lt.mpr hk), nofun, fun _ _ => congrArg (decodeEmit k) hsame.symm⟩
    | cons b c => exact decodeEnds_unmatched s hk
  | succ todo ih =>
    have hcand : s.candidate = Cand.ofBits c := by rw [State.candidate, hc]
    rw [payloadFrom_succ, decodeLoop, payloadBit_ok (by omega)]
    generalize byteBit (s.bufByte .payload (j / 8)) j = b
    simp only [hcand, Cand.ofBits_append]
    split
    · next hlong =>
      have hlong' : 32 < (c ++ [b]).length := hlong
      rw [List.length_append, List.length_singleton] at hlong'
      rw [greedy_of_long (fun _ => inverseDict_of_long hdict) _ (by omega)]
      exact decodeEnds_unmatched _ hk
    have hbits' : j + 1 + todo ≤ 8 * s.cfg.payloadBytes := by omega
    have hlook : dictLookup (Cand.ofBits (c ++ [b])) { s with cand := some (Cand.ofBits (c ++ [b])) } =
        s.inverseDict (c ++ [b]) :=
      dictLookup_ofBits (s := { s with cand := some (Cand.ofBits (c ++ [b])) }) hdict (c ++ [b])
    rw [hlook, greedy]
    cases s.inverseDict (c ++ [b]) with
    | none => exact (ih (s := { s with cand := some (Cand.ofBits (c ++ [b])) }) hdict hbits' hk rfl).withCand
    | some sym =>
      dsimp only
      split
      · next hfull => exact decodeEnds_tooLarge _ hfull.ge
      · next hfull =>
        have hroom : k < s.cfg.maxChunk := hk.lt_of_ne hfull
        rw [memWrite_ok.mpr ⟨hroom, rfl⟩]
        exact (ih (s := s.decodedFrom k [sym]) hdict hbits' hroom rfl).cons

/-- DEC_DECODE's Body is greedy decoding (R250, R251). -/
theorem decodeStart_ends {s : State} (hdict : DictMasked s) (hbits : s.bitLen.toNat ≤ 8 * s.cfg.payloadBytes) :
    DecodeEnds s 0 (greedy s.inverseDict [] s.payloadString) (decodeStart s) := by
  rw [payloadString_eq, decodeStart]
  exact (decodeLoop_ends (s := { s with cand := some Cand.empty }) hdict ((Nat.zero_add _).trans_le hbits)
    (Nat.zero_le _) rfl).withCand

/-- `s` with the bytes `out` of its chunk decoded (R250). -/
def State.decoded (s : State) (out : List Byte) : State :=
  { s.decodedFrom 0 out with curLen := BitVec.ofNat 32 out.length }

/-- Where greedy decoding leaves no candidate and its bytes fit, DEC_DECODE pushes them (R250, R253). -/
theorem decodeStart_of_clean {s : State} {out : List Byte} (hdict : DictMasked s)
    (hbits : s.bitLen.toNat ≤ 8 * s.cfg.payloadBytes) (hgreedy : greedy s.inverseDict [] s.payloadString = (out, true))
    (hfits : out.length ≤ s.cfg.maxChunk) : decodeStart s = emit .decoded out decodeFinish (s.decoded out) := by
  have hends := decodeStart_ends hdict hbits
  rw [hgreedy] at hends
  have hread : memReadList .chunk (s.decodedFrom 0 out) out.length 0 = .ok out := memReadList_storeBytes rfl hfits
  rw [hends.clean ((Nat.zero_add _).trans_le hfits) rfl, Nat.zero_add, decodeEmit, hread]
  rfl

/-- Bytes that are stored leave the others alone. -/
theorem lookup_storeBytes_of_le (m : Memory) {k : Nat} (bs : List Byte) {j : Nat} (h : k + bs.length ≤ j) :
    (storeBytes m k bs).lookup j = m.lookup j := by
  induction bs generalizing m k with
  | nil => rfl
  | cons b bs ih =>
    rw [List.length_cons] at h
    rw [storeBytes, ih _ (by omega), Memory.lookup_insert_of_ne _ _ (by omega)]

theorem dictMasked_of_sized {s : State} (h : Sized s) : DictMasked s := fun i _ => ⟨h.dictLen i, h.dictVal i⟩

/-- Settles O48. DEC_DECODE's Body arrives where greedy decoding says: at an error, or at the first OutPush. -/
theorem decDecodeIsGreedy : Obligations.DecDecodeIsGreedy := by
  intro s out clean hinv hs hphase hgreedy
  obtain ⟨hbits, hbytes⟩ := hinv.controlled.payload (.inr hphase)
  have hends := decodeStart_ends (dictMasked_of_sized hinv.sized) (show _ ≤ 8 * s.cfg.payloadBytes by omega)
  have harr : Arrives .decDecode s (decodeStart s) :=
    arrives_atStart (.inr hs) (decide_eq_true hphase) (by rw [← show s.run = _ from hs]; rfl)
  have herror {u : State} {c : ErrCode} (h : decodeStart s = .error u c) :
      ∃ t, exec .decDecode s = .next t ∧ t.phase = .error ∧ t.errCode = c.code ∧ t.outFifo = s.outFifo := by
    have hexec := Arrives.error (h ▸ harr)
    obtain ⟨-, -, -, -, -, -, -, -, -, hout, -⟩ := errorEntryRecords _ _ _ hexec (by rw [hphase]; decide) rfl
    exact ⟨_, hexec, rfl, rfl, hout⟩
  rw [hgreedy] at hends
  refine ⟨fun hlarge => ?_, fun hfits hclean => ?_, fun b rest hout hfits hclean hroom => ?_⟩
  · obtain ⟨u, hu⟩ := hends.tooLarge (by simpa using hlarge)
    exact herror hu
  · obtain ⟨u, hu⟩ := hends.unmatched (by simpa using hfits) hclean
    exact herror hu
  · subst hclean hout
    rw [decodeStart_of_clean (dictMasked_of_sized hinv.sized) (by omega) hgreedy hfits, emit_cons] at harr
    refine ⟨_, harr.push hs hroom, rfl, rfl, rfl, rfl, hphase,
      fun k => bufByte_of_storeBytes (m := s.chunkBuf) rfl, fun k hk => ?_, rfl, rfl⟩
    have hlook := lookup_storeBytes_of_le s.chunkBuf (k := 0) (b :: rest) (j := k) (by omega)
    simp only [State.bufByte, State.buf, State.decoded, State.decodedFrom, hlook]

end Sys2Proof.Machine
end

/-! ## The record of a chunk decodes to the chunk (spec/30_encoding.md R120 to R123; spec/44_decoder.md R251, R264) -/

section
namespace Sys2Proof.Machine

/-! ### Greedy decoding of a code in which no codeword begins with another (R172, R251) -/

/-- The bits of a codeword that follow the candidate `c` complete its symbol. -/
theorem greedy_codeword {dict : Bits → Option Byte} {w : Bits} {b : Byte} (hw : dict w = some b)
    (hproper : ∀ p, p <+: w → p ≠ w → dict p = none) {c v : Bits} (hcv : c ++ v = w) (hv : v ≠ []) (rest : Bits) :
    greedy dict c (v ++ rest) = (b :: (greedy dict [] rest).1, (greedy dict [] rest).2) := by
  induction v generalizing c with
  | nil => exact absurd rfl hv
  | cons x v ih =>
    have hsplit : (c ++ [x]) ++ v = w := by rw [← hcv, List.append_assoc, List.singleton_append]
    rw [List.cons_append, greedy]
    rcases eq_or_ne v [] with rfl | hne
    · rw [← hsplit, List.append_nil] at hw
      rw [hw, List.nil_append]
    · have hshort : c ++ [x] ≠ w := fun heq => hne (List.append_right_eq_self.mp (hsplit.trans heq.symm))
      rw [hproper _ ⟨v, hsplit⟩ hshort]
      exact ih hsplit hne

/-- A string of codewords decodes to its symbols. -/
theorem greedy_flatMap {dict : Bits → Option Byte} {code : Byte → Bits} {chunk : List Byte}
    (hne : ∀ b ∈ chunk, code b ≠ []) (hcode : ∀ b ∈ chunk, dict (code b) = some b)
    (hproper : ∀ b ∈ chunk, ∀ p, p <+: code b → p ≠ code b → dict p = none) :
    greedy dict [] (chunk.flatMap code) = (chunk, true) := by
  induction chunk with
  | nil => rfl
  | cons b chunk ih =>
    have hb := List.mem_cons_self (a := b) (l := chunk)
    rw [List.flatMap_cons, greedy_codeword (hcode b hb) (hproper b hb) (List.nil_append _) (hne b hb),
      ih (fun c hc => hne c (List.mem_cons_of_mem b hc)) (fun c hc => hcode c (List.mem_cons_of_mem b hc))
        fun c hc => hproper c (List.mem_cons_of_mem b hc)]

/-! ### The dictionary of a chunk (R121, R175) -/

/-- The dictionary of a chunk: its symbols in ascending order, each with its leaf's path. -/
def dictOf (chunk : List Byte) : List (Byte × Bits) :=
  (present (freqOf chunk)).map fun sym => (BitVec.ofNat 8 sym, pathOf (leavesOfChunk chunk) (BitVec.ofNat 8 sym))

/-- The length byte of an entry of the dictionary (R121). -/
def lenOfEntry (e : Byte × Bits) : Byte := BitVec.ofNat 8 e.2.length

/-- The codeword of an entry as a value (R122). -/
def valOfEntry (e : Byte × Bits) : Word := BitVec.ofNat 32 (bitsVal e.2)

/-- The bytes of an entry of the dictionary (R121). -/
def bytesOfEntry (e : Byte × Bits) : List Byte := e.1 :: lenOfEntry e :: be32 (valOfEntry e)

/-- A record of the container, field by field (R120). -/
structure Record where
  count    : Word
  dict     : List (Byte × Bits)
  bitLen   : Word
  byteLen  : Word
  payload  : List Byte

/-- The bytes of a record. -/
def Record.bytes (r : Record) : List Byte :=
  be32 r.count ++ r.dict.flatMap bytesOfEntry ++ (be32 r.bitLen ++ be32 r.byteLen) ++ r.payload

/-- The record of a chunk whose payload is `P`. -/
def recordOf (chunk P : List Byte) : Record where
  count := BitVec.ofNat 32 (dictOf chunk).length
  dict := dictOf chunk
  bitLen := BitVec.ofNat 32 (bitsOfChunk chunk).length
  byteLen := BitVec.ofNat 32 P.length
  payload := P

theorem isRecord_iff {chunk r : List Byte} :
    IsRecord chunk r ↔ ∃ P, Packed (bitsOfChunk chunk) P ∧ r = (recordOf chunk P).bytes := by
  simp only [recordOf, Record.bytes, dictOf, List.length_map, List.flatMap_map, ← List.append_assoc]
  rfl

theorem dictOf_length_le (chunk : List Byte) : (dictOf chunk).length ≤ 256 :=
  (List.length_map _).trans_le (present_length_le _)

/-- A symbol that is present leaves one tree, and its root is no leaf (R201, R205). -/
theorem buildQueue_eq_singleton {freq : Table Word} (h : present freq ≠ []) :
    ∃ root, buildQueue freq = [root] ∧ ∀ l ∈ root.paths [], l.2 ≠ [] := by
  rcases hpresent : present freq with _ | ⟨sym, _ | ⟨sym', rest⟩⟩
  · exact absurd hpresent h
  · exact ⟨_, buildQueue_of_single hpresent, List.forall_mem_singleton.mpr (List.cons_ne_nil _ _)⟩
  · have htwo : 2 ≤ (present freq).length := by simp [hpresent]
    obtain ⟨root, hqueue, hmerged, -⟩ := buildQueue_merged htwo
    have hlen : root.merges + 1 = (present freq).length := by
      rw [← hmerged.length_symbols, ← (symbols_perm_present hqueue).length_eq, Tree.symbols, List.length_map,
        List.length_map]
    exact ⟨root, hqueue, fun l hl => List.length_pos_iff.mp (hmerged.depth_pos (by omega) hl)⟩

section
variable {chunk : List Byte}

/-- The symbols present in a chunk are its bytes. -/
theorem mem_present_freqOf (h : chunk.length < 2 ^ 32) {b : Byte} :
    b.toNat ∈ present (freqOf chunk) ↔ b ∈ chunk := by
  rw [(present_freqOf_perm h).mem_iff, List.mem_map]
  simp [BitVec.toNat_inj]

/-- Each symbol present has a leaf, which is not the root. -/
theorem leaf_of_mem_present {sym : Nat} (h : sym ∈ present (freqOf chunk)) :
    (BitVec.ofNat 8 sym, pathOf (leavesOfChunk chunk) (BitVec.ofNat 8 sym)) ∈ leavesOfChunk chunk ∧
      pathOf (leavesOfChunk chunk) (BitVec.ofNat 8 sym) ≠ [] := by
  obtain ⟨root, hqueue, hne⟩ := buildQueue_eq_singleton (List.ne_nil_of_mem h)
  have hleaves : leavesOfChunk chunk = root.paths [] := by rw [leavesOfChunk, hqueue]; rfl
  obtain ⟨l, hl, hsym⟩ := List.mem_map.mp ((symbols_perm_present hqueue).mem_iff.mpr h)
  rw [← hleaves] at hne hl
  have hmem : (BitVec.ofNat 8 sym, pathOf (leavesOfChunk chunk) (BitVec.ofNat 8 sym)) ∈ leavesOfChunk chunk := by
    refine (pathOf_cases _ _).resolve_right fun ⟨hnot, _⟩ => hnot (List.mem_map.mpr ⟨l, hl, ?_⟩)
    rw [← hsym, BitVec.ofNat_toNat, BitVec.setWidth_eq]
  exact ⟨hmem, hne _ hmem⟩

theorem mem_leavesOfChunk_of_mem_dictOf {e : Byte × Bits} (h : e ∈ dictOf chunk) :
    e ∈ leavesOfChunk chunk ∧ e.2 ≠ [] := by
  obtain ⟨sym, hsym, rfl⟩ := List.mem_map.mp h
  exact leaf_of_mem_present hsym

/-- Each byte of the chunk has an entry. -/
theorem mem_dictOf (h : chunk.length < 2 ^ 32) {b : Byte} (hb : b ∈ chunk) :
    (b, pathOf (leavesOfChunk chunk) b) ∈ dictOf chunk := by
  refine List.mem_map.mpr ⟨b.toNat, (mem_present_freqOf h).mpr hb, ?_⟩
  rw [BitVec.ofNat_toNat, BitVec.setWidth_eq]

/-- No two entries of the dictionary have the same codeword. -/
theorem dictOf_pairwise (chunk : List Byte) : (dictOf chunk).Pairwise fun e f => PrefixApart e.2 f.2 := by
  refine List.pairwise_map.mpr ((present_sorted _).imp_of_mem fun {i j} hi hj hlt => ?_)
  refine leavesOf_prefixApart (leaf_of_mem_present hi).1 (leaf_of_mem_present hj).1 fun heq => hlt.ne ?_
  rw [← toNat_ofNat_symbol (mem_present.mp hi).1, ← toNat_ofNat_symbol (mem_present.mp hj).1,
    (Prod.mk.inj heq).1]

end

/-! ### The inverse dictionary of a chunk (R251) -/

/-- The first entries of the block's dictionary are `es`. -/
structure HasEntries (es : List (Byte × Bits)) (s : State) : Prop where
  sym : ∀ i (h : i < es.length), Table.entry s.dictSym i = es[i].1
  len : ∀ i (h : i < es.length), (Table.entry s.dictLen i).toNat = es[i].2.length
  val : ∀ i (h : i < es.length), (Table.entry s.dictVal i).toNat = bitsVal es[i].2

/-- The block's dictionary is `es`. -/
structure HasDict (es : List (Byte × Bits)) (s : State) : Prop extends HasEntries es s where
  count : s.dictCount.toNat = es.length

section
variable {es : List (Byte × Bits)} {s : State}

theorem HasDict.masked (h : HasDict es s) (hlen : ∀ e ∈ es, e.2.length ≤ 32) : DictMasked s := by
  intro i hi
  rw [h.count] at hi
  rw [h.len i hi, h.val i hi]
  exact ⟨hlen _ (List.getElem_mem hi), bitsVal_lt _⟩

/-- The inverse dictionary finds the entry of a codeword. -/
theorem HasDict.inverseDict_eq (h : HasDict es s) (hlen : ∀ e ∈ es, e.2.length ≤ 32) (c : Bits) :
    s.inverseDict c = (es.find? fun e => decide (e.2 = c)).map Prod.fst := by
  have hes : es = (List.range es.length).map fun i => (Table.entry s.dictSym i,
      bitsOf (Table.entry s.dictLen i).toNat (Table.entry s.dictVal i)) := by
    refine List.ext_getElem (by simp) fun i hi _ => ?_
    have hcode : bitsOf (Table.entry s.dictLen i).toNat (Table.entry s.dictVal i) = es[i].2 := by
      obtain ⟨hL, hv⟩ := h.masked hlen i (h.count.symm ▸ hi)
      exact (bitsOf_eq_iff hL hv).mpr ⟨h.len i hi, h.val i hi⟩
    rw [List.getElem_map, List.getElem_range, h.sym i hi, hcode]
  rw [State.inverseDict, h.count]
  conv_rhs => rw [hes, List.find?_map, Option.map_map]
  rfl

end

section
variable {chunk : List Byte} {s : State}

/-- The only entry that a codeword of the dictionary begins with is its own. -/
theorem eq_of_mem_dictOf {e f : Byte × Bits} (he : e ∈ dictOf chunk) (hf : f ∈ dictOf chunk) (h : f.2 <+: e.2) :
    f = e := by
  by_contra hne
  exact (leavesOf_prefixApart (mem_leavesOfChunk_of_mem_dictOf hf).1 (mem_leavesOfChunk_of_mem_dictOf he).1 hne).1 h

/-- The payload of a chunk's record decodes to the chunk (R264). -/
theorem greedy_bitsOfChunk (h : HasDict (dictOf chunk) s) (hrec : HasRecord chunk) (hsize : chunk.length < 2 ^ 32) :
    greedy s.inverseDict [] (bitsOfChunk chunk) = (chunk, true) := by
  have hinv := h.inverseDict_eq fun e he => hrec e (mem_leavesOfChunk_of_mem_dictOf he).1
  refine greedy_flatMap (code := pathOf (leavesOfChunk chunk))
    (fun b hb => (mem_leavesOfChunk_of_mem_dictOf (mem_dictOf hsize hb)).2) (fun b hb => ?_) fun b hb p hp hne => ?_
  · have hmem := mem_dictOf hsize hb
    rw [hinv]
    cases hfind : (dictOf chunk).find? fun e => decide (e.2 = pathOf (leavesOfChunk chunk) b) with
    | none => exact absurd (List.find?_eq_none.mp hfind _ hmem) (by simp)
    | some f =>
      have hcode : f.2 = pathOf (leavesOfChunk chunk) b := by simpa using List.find?_some hfind
      rw [eq_of_mem_dictOf hmem (List.mem_of_find?_eq_some hfind) (hcode ▸ List.prefix_rfl)]
      rfl
  · rw [hinv, Option.map_eq_none_iff, List.find?_eq_none]
    intro f hf heq
    obtain rfl := of_decide_eq_true heq
    exact hne (congrArg Prod.snd (eq_of_mem_dictOf (mem_dictOf hsize hb) hf hp))

/-- A packed bit string reads back from PAYLOAD_BUF (R123, R291). -/
theorem payloadString_of_packed {B : Bits} {P : List Byte} {m : Memory} (h : Packed B P)
    (hbuf : s.payloadBuf = storeBytes m 0 P) (hlen : s.bitLen.toNat = B.length) : s.payloadString = B := by
  obtain ⟨hbytes, hbits⟩ := h
  refine List.ext_getElem (by simp [State.payloadString, hlen]) fun j hj hj' => ?_
  rw [ceil8] at hbytes
  have hbyte : s.bufByte .payload (j / 8) = P.getD (j / 8) 0#8 := by
    have hlt : j / 8 < P.length := by omega
    simp [State.bufByte, State.buf, hbuf, lookup_storeBytes m P hlt, hlt]
  simp only [State.payloadString, List.getElem_map, List.getElem_range]
  rw [hbyte, hbits j (by omega), List.getD_eq_getElem _ _ hj']

end

end Sys2Proof.Machine
end

/-! ## The bytes of a record, taken one a step by DEC_CHUNK or DEC_ALL
(spec/44_decoder.md R240 to R246, R258, R260; spec/45_bitstream_unpacker.md R290) -/

section
namespace Sys2Proof.Machine

/-! ### Reading bytes one a step (R84) -/

/-- After `n` steps from `s` command `i` goes on with the computation `k` in the state `v`, at a position of its own. -/
def GoesOn (i : Instr) (n : Nat) (s : State) (k : State → Request) (v : State) : Prop :=
  ∃ t p, Host.Core.run Sys2Proof.core n s = .next t ∧ Engaged i t ∧ Arrives i t (k (v.atPoint i p))

/-- `v` after the bytes `bs` are taken, with `rest` left in the input FIFO. -/
def State.read (v : State) (bs rest : List Byte) : State :=
  { v with inFifo := rest, inCount := v.inCount + BitVec.ofNat 32 bs.length }

section
variable {i : Instr} {n : Nat} {s v w : State} {k k' : State → Request} {b : Byte} {bs rest : List Byte}

theorem read_read (v : State) (bs cs rest rest' : List Byte) :
    (v.read bs rest).read cs rest' = v.read (bs ++ cs) rest' := by
  simp only [State.read, List.length_append, BitVec.ofNat_add, BitVec.add_assoc]

theorem goesOn_zero (hs : Engaged i s) (hv : Engaged i v) (h : Arrives i s (k v)) : GoesOn i 0 s k v := by
  obtain ⟨p, hp⟩ := hv.run
  have hsame : v.atPoint i p = v := by rw [State.atPoint, ← show v.run = _ from hp]
  exact ⟨s, p, rfl, hs, hsame.symm ▸ h⟩

theorem GoesOn.congr (h : GoesOn i n s k v) (heq : ∀ p, k (v.atPoint i p) = k' (w.atPoint i p)) :
    GoesOn i n s k' w := by
  obtain ⟨t, p, hrun, ht, harr⟩ := h
  exact ⟨t, p, hrun, ht, heq p ▸ harr⟩

/-- A command that runs on after a step is still the engine's. -/
theorem Engaged.step {t : State} {p : Point} (h : Engaged i s) (ht : exec i s = .next t) (hp : AtPoint i p t) :
    Engaged i t := by
  obtain ⟨-, -, -, hreset, -, -, hhost, -⟩ := commandsLeaveTheHostsRegisters i s t ht
  exact ⟨⟨p, hp⟩, hhost.trans h.host, hreset.trans h.inReset⟩

/-- An InPop takes the next byte. -/
theorem GoesOn.byte {site : PopSite} (h : GoesOn i n s (.pop · site) v) (hf : v.inFifo = b :: rest) :
    GoesOn i (n + 1) s (fun u => (afterPop site (some b) u).andThen (nextOf i site.body)) (v.read [b] rest) := by
  obtain ⟨t, p, hrun, ht, harr⟩ := h
  have hstep := harr.byte rfl hf
  exact ⟨_, .popped site (some b), run_succ hrun ht hstep, ht.step hstep rfl, arrives_afterPop rfl⟩

/-- The bytes of a field are taken one a step: at `site got` the Body has the bytes `got`, and up to `m` bytes it asks
for the next one. -/
theorem GoesOn.field {site : List Byte → PopSite} {m : Nat}
    (hsite : ∀ got b u, got.length < m → afterPop (site got) (some b) u = .pop u (site (got ++ [b])))
    (h : GoesOn i n s (.pop · (site [])) v) (hlen : bs.length ≤ m) (hf : v.inFifo = bs ++ b :: rest) :
    GoesOn i (n + (bs ++ [b]).length) s (fun u => (afterPop (site bs) (some b) u).andThen (nextOf i (site bs).body))
      (v.read (bs ++ [b]) rest) := by
  induction bs using List.reverseRecOn generalizing b rest with
  | nil => exact h.byte hf
  | append_singleton bs a ih =>
    rw [List.length_append, List.length_singleton] at hlen
    have hbefore := ih (b := a) (rest := b :: rest) (by omega) (by simpa using hf)
    have hpop : GoesOn i (n + (bs ++ [a]).length) s (.pop · (site (bs ++ [a]))) (v.read (bs ++ [a]) (b :: rest)) :=
      hbefore.congr fun p => by rw [hsite bs a _ (by omega), andThen_pop]
    have hnext := hpop.byte rfl
    rw [read_read] at hnext
    rw [List.length_append (bs := [b])]
    exact hnext

/-- A field of 32 bits is taken, most significant byte first, and the Body goes on with its value (R17). -/
theorem GoesOn.word {site : List Byte → PopSite} {body : Body} {check : Word → State → Request} {x : Word}
    (h : GoesOn i n s (.pop · (site [])) v) (hf : v.inFifo = be32 x ++ rest)
    (hbody : ∀ got, (site got).body = body)
    (hsite : ∀ got b u, got.length < 3 → afterPop (site got) (some b) u = .pop u (site (got ++ [b])))
    (hlast : ∀ b0 b1 b2 b3 u, afterPop (site [b0, b1, b2]) (some b3) u = check (fromBe32 b0 b1 b2 b3) u) :
    GoesOn i (n + 4) s (fun u => (check x u).andThen (nextOf i body)) (v.read (be32 x) rest) := by
  have hfield := h.field (bs := [x.extractLsb' 24 8, x.extractLsb' 16 8, x.extractLsb' 8 8]) hsite le_rfl hf
  simp only [hbody, hlast, fromBe32_be32] at hfield
  exact hfield

/-! ### ReadDictCount (R240) -/

/-- `v` after the count is read. -/
def State.countRead (v : State) (count : Word) : State :=
  { v with curLen := 0#32, bitLen := 0#32, byteLen := 0#32, dictCount := count, phase := .dEntries }

theorem GoesOn.readCount {count : Word} (hi : i = .decChunk ∨ i = .decAll) (h : GoesOn i n s readCountStart v)
    (hle : count.toNat ≤ 256) (hf : v.inFifo = be32 count ++ rest) :
    GoesOn i (n + 4) s (fun u => (entriesLoop 0 u).andThen readMetaStart)
      ((v.countRead count).read (be32 count) rest) := by
  have hpop : GoesOn i n s (.pop · (.count [])) { v with curLen := 0#32, bitLen := 0#32, byteLen := 0#32 } :=
    h.congr fun _ => rfl
  refine (hpop.word (check := readCountCheck) hf (fun _ => rfl) (fun _ _ _ => readCountGot_of_lt)
    fun _ _ _ _ _ => rfl).congr fun p => ?_
  rw [nextOf_count hi, readCountCheck_of_le hle, andThen_done, afterCount, if_neg (by exact nofun)]
  rfl

/-! ### ReadDictEntries (R243) -/

theorem nextOf_entries (hi : i = .decChunk ∨ i = .decAll) : nextOf i .entries = readMetaStart := by
  rcases hi with rfl | rfl
  · rfl
  · rfl

/-- A value masked to its length is written as it is (R245). -/
theorem entryCheck_of_masked {j : Nat} {sym L : Byte} {x : Word} (hL : L.toNat ≤ 32) (hx : x.toNat < 2 ^ L.toNat)
    (hdup : ¬ Duplicate j L x v) : entryCheck j sym L x v = entriesLoop (j + 1) (writeEntry j sym L x v) := by
  rw [entryCheck_of_not_duplicate hL hdup, Nat.mod_eq_of_lt hx, BitVec.ofNat_toNat, BitVec.setWidth_eq]

/-- Entry `j` is taken and written. -/
theorem GoesOn.readEntry {j : Nat} {sym L : Byte} {x : Word} (hi : i = .decChunk ∨ i = .decAll)
    (h : GoesOn i n s (fun u => (entriesLoop j u).andThen readMetaStart) v) (hj : j < v.dictCount.toNat)
    (hL : L.toNat ≤ 32) (hx : x.toNat < 2 ^ L.toNat) (hdup : ¬ Duplicate j L x v)
    (hf : v.inFifo = (sym :: L :: be32 x) ++ rest) :
    GoesOn i (n + 6) s (fun u => (entriesLoop (j + 1) u).andThen readMetaStart)
      ((writeEntry j sym L x v).read (sym :: L :: be32 x) rest) := by
  have hpop : GoesOn i n s (.pop · (.entry j [])) v := h.congr fun p => by
    rw [entriesLoop_of_lt (s := v.atPoint i p) hj, andThen_pop]
  refine (hpop.field (bs := [sym, L, x.extractLsb' 24 8, x.extractLsb' 16 8, x.extractLsb' 8 8])
    (fun _ _ _ => entryGot_of_lt) le_rfl hf).congr fun p => ?_
  show (entryCheck j sym L (fromBe32 _ _ _ _) ((v.read (sym :: L :: be32 x) rest).atPoint i p)).andThen
    (nextOf i .entries) = _
  rw [fromBe32_be32, nextOf_entries hi,
    entryCheck_of_masked (v := (v.read (sym :: L :: be32 x) rest).atPoint i p) hL hx hdup]
  rfl

end

/-- The table after the values `xs` are stored from index `k` on. -/
def Table.putAll {n : Nat} : Table (BitVec n) → Nat → List (BitVec n) → Table (BitVec n)
  | t, _, [] => t
  | t, k, x :: xs => Table.putAll (Table.put t k x) (k + 1) xs

theorem Table.putAll_append_single {n : Nat} (t : Table (BitVec n)) (k : Nat) (xs : List (BitVec n)) (x : BitVec n) :
    Table.putAll t k (xs ++ [x]) = Table.put (Table.putAll t k xs) (k + xs.length) x := by
  induction xs generalizing t k with
  | nil => rfl
  | cons y xs ih => rw [List.cons_append, putAll, ih, putAll, List.length_cons, Nat.add_right_comm, Nat.add_assoc]

/-- A stored value reads back. -/
theorem Table.entry_putAll {n : Nat} (t : Table (BitVec n)) {xs : List (BitVec n)} (hsize : xs.length ≤ 256) {j : Nat}
    (h : j < xs.length) : Table.entry (Table.putAll t 0 xs) j = xs[j] := by
  induction xs using List.reverseRecOn with
  | nil => cases h
  | append_singleton xs x ih =>
    rw [List.length_append, List.length_singleton] at h hsize
    rw [putAll_append_single, Nat.zero_add]
    rcases Nat.lt_or_ge j xs.length with hj | hj
    · rw [Table.entry_put_of_ne _ _ (Nat.ne_of_lt hj), ih (by omega) hj, List.getElem_append_left hj]
    · obtain rfl : j = xs.length := by omega
      rw [Table.entry_put_self _ _ (by omega)]
      simp

/-- `v` after the dictionary entries `es` are written. -/
def State.entered (v : State) (es : List (Byte × Bits)) : State :=
  { v with
    dictSym := Table.putAll v.dictSym 0 (es.map Prod.fst)
    dictLen := Table.putAll v.dictLen 0 (es.map fun e => (lenOfEntry e).setWidth 6)
    dictVal := Table.putAll v.dictVal 0 (es.map valOfEntry)
    dictSpec := max v.dictSpec es.length }

section
variable {i : Instr} {n : Nat} {s v : State} {rest : List Byte} {es : List (Byte × Bits)} {e : Byte × Bits}

theorem entered_append_single (v : State) (es : List (Byte × Bits)) (e : Byte × Bits) :
    writeEntry es.length e.1 (lenOfEntry e) (valOfEntry e) (v.entered es) = v.entered (es ++ [e]) := by
  simp only [writeEntry, State.entered, List.map_append, List.map_singleton, Table.putAll_append_single, Nat.zero_add,
    List.length_map, List.length_append, List.length_singleton]
  congr 1
  omega

theorem toNat_lenOfEntry (h : e.2.length ≤ 32) : (lenOfEntry e).toNat = e.2.length := toNat_ofNat_symbol (by omega)

theorem toNat_valOfEntry (h : e.2.length ≤ 32) : (valOfEntry e).toNat = bitsVal e.2 := by
  have hval := bitsVal_lt e.2
  have hpow : 2 ^ e.2.length ≤ 2 ^ 32 := Nat.pow_le_pow_right (by decide) h
  rw [valOfEntry, BitVec.toNat_ofNat, Nat.mod_eq_of_lt (by omega)]

theorem hasEntries_entered (v : State) (hsize : es.length ≤ 256) (hlen : ∀ e ∈ es, e.2.length ≤ 32) :
    HasEntries es (v.entered es) := by
  refine ⟨fun j hj => ?_, fun j hj => ?_, fun j hj => ?_⟩ <;> have hshort := hlen _ (List.getElem_mem hj)
  · exact (Table.entry_putAll _ (by simpa using hsize) (by simpa using hj)).trans (List.getElem_map _)
  · have hentry := Table.entry_putAll v.dictLen (xs := es.map fun e => (lenOfEntry e).setWidth 6)
      (by simpa using hsize) (by simpa using hj)
    rw [List.getElem_map] at hentry
    rw [State.entered, hentry, BitVec.toNat_setWidth, toNat_lenOfEntry hshort, Nat.mod_eq_of_lt (by omega)]
  · have hentry := Table.entry_putAll v.dictVal (xs := es.map valOfEntry) (by simpa using hsize) (by simpa using hj)
    rw [List.getElem_map] at hentry
    rw [State.entered, hentry, toNat_valOfEntry hshort]

/-- Two bit strings of one length and one value are one. -/
theorem eq_of_bitsVal_eq {p q : Bits} (h : p.length ≤ 32) (hlen : p.length = q.length) (hval : bitsVal p = bitsVal q) :
    p = q := by
  rw [← bitsOf_bitsVal p h, hlen, hval, bitsOf_bitsVal q (hlen ▸ h)]

/-- An entry whose codeword differs from those before it is no duplicate (R244). -/
theorem not_duplicate_entered (hsize : es.length ≤ 256) (hlen : ∀ f ∈ es, f.2.length ≤ 32) (he : e.2.length ≤ 32)
    (hne : ∀ f ∈ es, f.2 ≠ e.2) : ¬ Duplicate es.length (lenOfEntry e) (valOfEntry e) (v.entered es) := by
  rintro ⟨j, hj, hL, hx⟩
  have hentries := hasEntries_entered v hsize hlen
  have hmem := List.getElem_mem hj
  rw [hentries.len j hj, toNat_lenOfEntry he] at hL
  rw [hentries.val j hj, toNat_valOfEntry he, toNat_lenOfEntry he, Nat.mod_eq_of_lt (bitsVal_lt _)] at hx
  exact hne _ hmem (eq_of_bitsVal_eq (hlen _ hmem) hL hx)

/-- The entries of a dictionary without equal codewords are taken and written one by one. -/
theorem GoesOn.readEntries (hi : i = .decChunk ∨ i = .decAll)
    (h : GoesOn i n s (fun u => (entriesLoop 0 u).andThen readMetaStart) v) (hcount : es.length ≤ v.dictCount.toNat)
    (hsize : es.length ≤ 256) (hlen : ∀ e ∈ es, e.2.length ≤ 32) (hne : es.Pairwise fun e f => e.2 ≠ f.2)
    (hf : v.inFifo = es.flatMap bytesOfEntry ++ rest) :
    GoesOn i (n + (es.flatMap bytesOfEntry).length) s (fun u => (entriesLoop es.length u).andThen readMetaStart)
      ((v.entered es).read (es.flatMap bytesOfEntry) rest) := by
  induction es using List.reverseRecOn generalizing rest with
  | nil =>
    refine h.congr fun p => ?_
    have hin : v.inFifo = rest := hf
    simp [State.read, State.entered, State.atPoint, Table.putAll, ← hin]
  | append_singleton es e ih =>
    rw [List.length_append, List.length_singleton] at hcount hsize
    obtain ⟨hne, -, hlast⟩ := List.pairwise_append.mp hne
    have hlenInit : ∀ f ∈ es, f.2.length ≤ 32 := fun f hf => hlen f (List.mem_append_left _ hf)
    have he : e.2.length ≤ 32 := hlen e (by simp)
    have hbefore := ih (rest := bytesOfEntry e ++ rest) (by omega) (by omega) hlenInit hne (by simpa using hf)
    have hentry := hbefore.readEntry (sym := e.1) (L := lenOfEntry e) (x := valOfEntry e) hi (by exact hcount)
      (by rw [toNat_lenOfEntry he]; exact he) (by rw [toNat_lenOfEntry he, toNat_valOfEntry he]; exact bitsVal_lt _)
      (not_duplicate_entered (by omega) hlenInit he fun f hf => hlast f hf e (by simp)) rfl
    have hread : (writeEntry es.length e.1 (lenOfEntry e) (valOfEntry e)
        ((v.entered es).read (es.flatMap bytesOfEntry) (bytesOfEntry e ++ rest))).read (bytesOfEntry e) rest =
        (v.entered (es ++ [e])).read ((es ++ [e]).flatMap bytesOfEntry) rest := by
      rw [← entered_append_single, List.flatMap_append, List.flatMap_singleton, ← read_read]
      rfl
    rw [← hread, List.flatMap_append, List.flatMap_singleton, List.length_append, List.length_append]
    exact hentry

/-! ### ReadPayloadMeta (R246) -/

/-- `v` after the two lengths are read. -/
def State.metaRead (v : State) (bits bytes : Word) : State :=
  { v with bitLen := bits, byteLen := bytes, phase := .dPayload }

theorem nextOf_lengths (hi : i = .decChunk ∨ i = .decAll) (h : 0 < v.byteLen.toNat) :
    nextOf i .lengths v = .pop v (.payload 0) := by
  rcases hi with rfl | rfl
  · show (payloadStart v).andThen decodeStart = _
    rw [payloadStart, payloadLoop_of_lt h, andThen_pop]
  · show ((payloadStart v).andThen decodeStart).andThen readCountStart = _
    rw [payloadStart, payloadLoop_of_lt h, andThen_pop, andThen_pop]

theorem GoesOn.readMeta {bits bytes : Word} (hi : i = .decChunk ∨ i = .decAll) (h : GoesOn i n s readMetaStart v)
    (hbits : bits.toNat ≤ 8 * bytes.toNat) (hbytes : bytes.toNat ≤ v.cfg.payloadBytes) (hpos : 0 < bytes.toNat)
    (hf : v.inFifo = be32 bits ++ (be32 bytes ++ rest)) :
    GoesOn i (n + 4 + 4) s (.pop · (.payload 0))
      ((v.metaRead bits bytes).read (be32 bits ++ be32 bytes) rest) := by
  have hpop : GoesOn i n s (.pop · (.bitLen [])) v := h.congr fun _ => rfl
  have hmid := hpop.word (check := fun x u => .pop { u with bitLen := x } (.byteLen [])) hf (fun _ => rfl)
    (fun _ _ _ => bitLenGot_of_lt) fun _ _ _ _ _ => rfl
  have hpop' : GoesOn i (n + 4) s (.pop · (.byteLen []))
      ({ v with bitLen := bits }.read (be32 bits) (be32 bytes ++ rest)) := hmid.congr fun _ => rfl
  refine (hpop'.word (check := fun x u => metaCheck { u with byteLen := x }) rfl (fun _ => rfl)
    (fun _ _ _ => byteLenGot_of_lt) fun _ _ _ _ _ => rfl).congr fun p => ?_
  rw [metaCheck_of_fits (by exact hbits) (by exact hbytes), andThen_done, nextOf_lengths hi (by exact hpos), read_read]
  rfl

/-! ### BU_READ_PAYLOAD (R290) -/

/-- `v` with the bytes `P` stored in PAYLOAD_BUF. -/
def State.payloadStored (v : State) (P : List Byte) : State :=
  { v with payloadBuf := storeBytes v.payloadBuf 0 P }

theorem payloadGot_payloadStored {P : List Byte} {b : Byte} (h : P.length < v.cfg.payloadBytes) :
    payloadGot P.length (some b) (v.payloadStored P) = payloadLoop (P.length + 1) (v.payloadStored (P ++ [b])) := by
  rw [payloadGot_byte (by exact h), State.payloadStored, State.payloadStored, storeBytes_append_single, Nat.zero_add]

/-- The bytes of the payload are taken one a step and stored. -/
theorem GoesOn.takePayload {P : List Byte} {b : Byte} (h : GoesOn i n s (.pop · (.payload 0)) v)
    (hlen : P.length < v.byteLen.toNat) (hsize : v.byteLen.toNat ≤ v.cfg.payloadBytes)
    (hf : v.inFifo = P ++ b :: rest) :
    GoesOn i (n + (P ++ [b]).length) s (fun u => (payloadGot P.length (some b) u).andThen (nextOf i .payload))
      ((v.payloadStored P).read (P ++ [b]) rest) := by
  induction P using List.reverseRecOn generalizing b rest with
  | nil => exact h.byte hf
  | append_singleton P a ih =>
    rw [List.length_append, List.length_singleton] at hlen
    have hbefore := ih (b := a) (rest := b :: rest) (by omega) (by simpa using hf)
    have hpop : GoesOn i (n + (P ++ [a]).length) s (.pop · (.payload (P ++ [a]).length))
        ((v.payloadStored (P ++ [a])).read (P ++ [a]) (b :: rest)) := by
      refine hbefore.congr fun p => ?_
      have hstored := payloadGot_payloadStored (v := (v.read (P ++ [a]) (b :: rest)).atPoint i p) (P := P) (b := a)
        (show _ < v.cfg.payloadBytes by omega)
      rw [payloadLoop_of_lt (by exact hlen)] at hstored
      rw [List.length_append, List.length_singleton]
      exact congrArg (Request.andThen · _) hstored
    have hnext := hpop.byte rfl
    rw [read_read] at hnext
    rw [List.length_append (bs := [b])]
    exact hnext

/-- Where the last byte of the payload is taken, the command goes on behind BU_READ_PAYLOAD's Body. -/
theorem GoesOn.readPayload {P : List Byte} (h : GoesOn i n s (.pop · (.payload 0)) v)
    (hlen : P.length = v.byteLen.toNat) (hne : P ≠ []) (hsize : v.byteLen.toNat ≤ v.cfg.payloadBytes)
    (hf : v.inFifo = P ++ rest) :
    GoesOn i (n + P.length) s (nextOf i .payload) ({ v.payloadStored P with phase := .dDecode }.read P rest) := by
  obtain ⟨P, b, rfl⟩ := (List.eq_nil_or_concat' P).resolve_left hne
  have hlen' : v.byteLen.toNat = P.length + 1 := by simpa using hlen.symm
  refine (h.takePayload (P := P) (b := b) (by omega) hsize (by simpa using hf)).congr fun p => ?_
  have hstored := payloadGot_payloadStored (v := (v.read (P ++ [b]) rest).atPoint i p) (P := P) (b := b)
    (show _ < v.cfg.payloadBytes by omega)
  rw [payloadLoop_of_le (by exact hlen'.le)] at hstored
  exact congrArg (Request.andThen · _) hstored

end

end Sys2Proof.Machine
end

/-! ## DEC_CHUNK gives the chunk of a record back (spec/44_decoder.md R250, R258, R264) -/

section
namespace Sys2Proof.Machine

/-! ### Reading a record (R120) -/

/-- On a block with parameters `p` the reading of the record raises no error (R240 to R246). -/
structure Record.Fits (r : Record) (p : Params) : Prop where
  count    : r.count.toNat = r.dict.length
  dict     : r.dict.length ≤ 256
  codeLen  : ∀ e ∈ r.dict, e.2.length ≤ 32
  codeword : r.dict.Pairwise fun e f => e.2 ≠ f.2
  bitLen   : r.bitLen.toNat ≤ 8 * r.byteLen.toNat
  byteLen  : r.byteLen.toNat = r.payload.length
  payload  : r.payload ≠ []
  size     : r.payload.length ≤ p.payloadBytes

/-- `v` after the record `r` is taken, with `rest` left in the input FIFO. -/
def State.received (v : State) (r : Record) (rest : List Byte) : State :=
  { ((v.countRead r.count).entered r.dict).metaRead r.bitLen r.byteLen with
    payloadBuf := storeBytes v.payloadBuf 0 r.payload, phase := .dDecode
    inFifo := rest, inCount := v.inCount + BitVec.ofNat 32 r.bytes.length }

section
variable {i : Instr} {n : Nat} {s v : State} {r : Record} {rest : List Byte}

/-- A record's dictionary is taken and written. -/
theorem GoesOn.readDict (hi : i = .decChunk ∨ i = .decAll) (h : GoesOn i n s readCountStart v) (hr : r.Fits v.cfg)
    (hf : v.inFifo = be32 r.count ++ (r.dict.flatMap bytesOfEntry ++ rest)) :
    GoesOn i (n + 4 + (r.dict.flatMap bytesOfEntry).length) s readMetaStart
      ({ (v.countRead r.count).entered r.dict with phase := .dMeta }.read
        (be32 r.count ++ r.dict.flatMap bytesOfEntry) rest) := by
  have hcount := h.readCount hi (hr.count.trans_le hr.dict) hf
  refine (hcount.readEntries hi hr.count.ge hr.dict hr.codeLen hr.codeword rfl).congr fun p => ?_
  rw [entriesLoop_of_le (by exact hr.count.le), andThen_done,
    ← read_read _ _ _ (r.dict.flatMap bytesOfEntry ++ rest)]
  rfl

/-- A record is taken byte by byte. -/
theorem GoesOn.readRecord (hi : i = .decChunk ∨ i = .decAll) (h : GoesOn i n s readCountStart v) (hr : r.Fits v.cfg)
    (hf : v.inFifo = r.bytes ++ rest) :
    GoesOn i (n + r.bytes.length) s (nextOf i .payload) (v.received r rest) := by
  have hdict := h.readDict (rest := be32 r.bitLen ++ (be32 r.byteLen ++ (r.payload ++ rest))) hi hr
    (by simpa [Record.bytes] using hf)
  have hsize : r.byteLen.toNat ≤ v.cfg.payloadBytes := hr.byteLen ▸ hr.size
  have hmeta := hdict.readMeta (bits := r.bitLen) (bytes := r.byteLen) (rest := r.payload ++ rest) hi hr.bitLen
    (by simpa only [State.read, State.entered, State.countRead] using hsize)
    (hr.byteLen ▸ List.length_pos_iff.mpr hr.payload) rfl
  have hpayload := hmeta.readPayload (P := r.payload) (rest := rest) hr.byteLen.symm hr.payload
    (by simpa only [State.metaRead, State.read, State.entered, State.countRead] using hsize) rfl
  have hsteps : n + r.bytes.length = n + 4 + (r.dict.flatMap bytesOfEntry).length + 4 + 4 + r.payload.length := by
    simp only [Record.bytes, List.length_append, be32_length]
    omega
  rw [hsteps]
  refine hpayload.congr fun p => congrArg (fun u : State => nextOf i .payload (u.atPoint i p)) ?_
  simp only [State.received, State.read, State.metaRead, State.payloadStored, State.entered, State.countRead,
    Record.bytes, BitVec.add_assoc, List.length_append, BitVec.ofNat_add]

/-- What taking a record leaves as it was. -/
theorem received_keeps (v : State) (r : Record) (rest : List Byte) :
    let u := v.received r rest
    u.cfg = v.cfg ∧ u.run = v.run ∧ u.host = v.host ∧ u.inReset = v.inReset ∧ u.outFifo = v.outFifo := by
  simp only [State.received, State.metaRead, State.entered, State.countRead, and_self]

/-- The block holds the record. -/
theorem received_holds (rest : List Byte) (hr : r.Fits v.cfg) :
    let u := v.received r rest
    HasDict r.dict u ∧ u.bitLen = r.bitLen ∧ u.payloadBuf = storeBytes v.payloadBuf 0 r.payload := by
  obtain ⟨hsym, hlen, hval⟩ := hasEntries_entered v hr.dict hr.codeLen
  exact ⟨⟨⟨hsym, hlen, hval⟩, hr.count⟩, rfl, rfl⟩

end

/-! ### The record of a chunk (R121 to R123) -/

section
variable {chunk P : List Byte}

/-- A chunk has a bit string, since no codeword is empty. -/
theorem bitsOfChunk_ne_nil (hne : chunk ≠ []) (hsize : chunk.length < 2 ^ 32) : bitsOfChunk chunk ≠ [] := by
  obtain ⟨b, rest, rfl⟩ := List.exists_cons_of_ne_nil hne
  have hb := (mem_leavesOfChunk_of_mem_dictOf (mem_dictOf hsize List.mem_cons_self)).2
  exact fun h => hb (List.append_eq_nil_iff.mp h).1

theorem toNat_bitLen_recordOf (hrec : HasRecord chunk) (hsize : chunk.length < 2 ^ 27) :
    (recordOf chunk P).bitLen.toNat = (bitsOfChunk chunk).length := by
  have hbits := bitsOfChunk_length_le hrec
  exact (BitVec.toNat_ofNat _ _).trans (Nat.mod_eq_of_lt (by omega))

/-- The record of a chunk that MAX_CHUNK admits is read without an error (R11, R12, R123). -/
theorem fits_recordOf {p : Params} (hP : Packed (bitsOfChunk chunk) P) (hrec : HasRecord chunk) (hne : chunk ≠ [])
    (hfits : chunk.length ≤ p.maxChunk) (hsize : chunk.length < 2 ^ 27) : (recordOf chunk P).Fits p := by
  have hbits := bitsOfChunk_length_le hrec
  have hpos := List.length_pos_iff.mpr (bitsOfChunk_ne_nil hne (by omega))
  have hdict := dictOf_length_le chunk
  have hbytes := hP.1
  rw [ceil8] at hbytes
  have hbyteLen : (recordOf chunk P).byteLen.toNat = P.length :=
    (BitVec.toNat_ofNat _ _).trans (Nat.mod_eq_of_lt (by omega))
  exact {
    count := (BitVec.toNat_ofNat _ _).trans (Nat.mod_eq_of_lt (by omega))
    dict := hdict
    codeLen := fun e he => hrec e (mem_leavesOfChunk_of_mem_dictOf he).1
    codeword := (dictOf_pairwise chunk).imp fun hapart heq => hapart.1 (by rw [heq])
    bitLen := by rw [toNat_bitLen_recordOf hrec hsize, hbyteLen]; omega
    byteLen := hbyteLen
    payload := List.length_pos_iff.mp (show 0 < P.length by omega)
    size := show P.length ≤ 4 * p.maxChunk by omega }

end

/-! ### The chunk of a record (R250, R264) -/

/-- `v` after command `i` has read the record `r` and pushed the chunk. -/
def State.restored (v : State) (i : Instr) (r : Record) (chunk rest : List Byte) : State :=
  ((v.received r rest).decoded chunk).emitted i .decoded chunk []

section
variable {i : Instr} {s v : State} {chunk P rest : List Byte}

/-- DEC_DECODE pushes the first byte of the chunk (R258, R260). -/
theorem nextOf_payload_of_push {site : PushSite} {u w : State} {b : Byte} {bs : List Byte}
    (hi : i = .decChunk ∨ i = .decAll) (h : decodeStart u = .push w site b bs) :
    nextOf i .payload u = .push w site b bs := by
  rcases hi with rfl | rfl
  · exact h
  · show (decodeStart u).andThen readCountStart = _
    rw [h, andThen_push]

theorem decoded_atPoint (u : State) (i : Instr) (p : Point) (out : List Byte) :
    (u.atPoint i p).decoded out = (u.decoded out).atPoint i p := rfl

/-- A block that holds a chunk's record decodes it to the chunk. -/
theorem decodeStart_of_record {u : State} {m : Memory} (hr : (recordOf chunk P).Fits u.cfg)
    (hP : Packed (bitsOfChunk chunk) P) (hrec : HasRecord chunk) (hfits : chunk.length ≤ u.cfg.maxChunk)
    (hsize : chunk.length < 2 ^ 27) (hdict : HasDict (dictOf chunk) u) (hbits : u.bitLen = (recordOf chunk P).bitLen)
    (hbuf : u.payloadBuf = storeBytes m 0 P) :
    decodeStart u = emit .decoded chunk decodeFinish (u.decoded chunk) := by
  have hbytes := hr.size
  rw [← hr.byteLen] at hbytes
  refine decodeStart_of_clean (hdict.masked hr.codeLen) ?_ ?_ hfits
  · rw [hbits]
    exact hr.bitLen.trans (Nat.mul_le_mul_left 8 hbytes)
  · rw [payloadString_of_packed hP hbuf (by rw [hbits, toNat_bitLen_recordOf hrec hsize])]
    exact greedy_bitsOfChunk hdict hrec (by omega)

/-- The block that has taken a chunk's record goes on to push the chunk. -/
theorem nextOf_payload_received {p : Point} (hi : i = .decChunk ∨ i = .decAll) (hP : Packed (bitsOfChunk chunk) P)
    (hrec : HasRecord chunk) (hne : chunk ≠ []) (hfits : chunk.length ≤ v.cfg.maxChunk)
    (hsize : chunk.length < 2 ^ 27) :
    nextOf i .payload ((v.received (recordOf chunk P) rest).atPoint i p) =
      emit .decoded chunk decodeFinish (((v.received (recordOf chunk P) rest).decoded chunk).atPoint i p) := by
  have hr := fits_recordOf hP hrec hne hfits hsize
  obtain ⟨hcfg, -⟩ := received_keeps v (recordOf chunk P) rest
  obtain ⟨⟨⟨hsym, hlen, hval⟩, hcount⟩, hbits, hbuf⟩ := received_holds rest hr
  rw [← hcfg] at hr hfits
  generalize v.received (recordOf chunk P) rest = u at *
  have hdecode := decodeStart_of_record (u := u.atPoint i p) hr hP hrec hfits hsize ⟨⟨hsym, hlen, hval⟩, hcount⟩ hbits
    hbuf
  obtain ⟨b, bs, rfl⟩ := List.exists_cons_of_ne_nil hne
  exact nextOf_payload_of_push hi hdecode

theorem engaged_received {r : Record} (h : Engaged i v) : Engaged i (v.received r rest) := by
  obtain ⟨p, hp⟩ := h.run
  obtain ⟨-, hrun, hhost, hreset, -⟩ := received_keeps v r rest
  exact ⟨⟨p, hrun.trans hp⟩, hhost.trans h.host, hreset.trans h.inReset⟩

/-- The bytes that are decoded are pushed one a step. -/
theorem run_decoded {u : State} {p : Point} {fin : State → Request} (hs : Engaged i s) (hu : Engaged i u)
    (harr : Arrives i s (emit .decoded chunk fin ((u.decoded chunk).atPoint i p))) (hne : chunk ≠ [])
    (hroom : u.outFifo.length + chunk.length ≤ u.cfg.outDepth) :
    Host.Core.run Sys2Proof.core chunk.length s = .next ((u.decoded chunk).emitted i .decoded chunk []) :=
  run_emit (u := (u.decoded chunk).atPoint i p) hs ⟨⟨p, rfl⟩, hu.host, hu.inReset⟩ harr hne hroom

/-- A composite of the decoder takes a chunk's record and then pushes the chunk, one byte a step. -/
theorem run_restored (hi : i = .decChunk ∨ i = .decAll) (hs : Engaged i s) (hv : Engaged i v)
    (hbegin : Arrives i s (readCountStart v)) (hP : Packed (bitsOfChunk chunk) P) (hrec : HasRecord chunk)
    (hne : chunk ≠ []) (hfits : chunk.length ≤ v.cfg.maxChunk) (hsize : chunk.length < 2 ^ 27)
    (hf : v.inFifo = (recordOf chunk P).bytes ++ rest) (hroom : v.outFifo.length + chunk.length ≤ v.cfg.outDepth) :
    Host.Core.run Sys2Proof.core ((recordOf chunk P).bytes.length + chunk.length) s =
      .next (v.restored i (recordOf chunk P) chunk rest) := by
  obtain ⟨t, p, hrun, ht, harr⟩ :=
    (goesOn_zero hs hv hbegin).readRecord hi (fits_recordOf hP hrec hne hfits hsize) hf
  rw [Nat.zero_add] at hrun
  rw [nextOf_payload_received hi hP hrec hne hfits hsize] at harr
  obtain ⟨hcfg, -, -, -, hout⟩ := received_keeps v (recordOf chunk P) rest
  have hroom' : (v.received (recordOf chunk P) rest).outFifo.length + chunk.length ≤
      (v.received (recordOf chunk P) rest).cfg.outDepth := by rwa [hcfg, hout]
  exact (run_add _ _ s hrun).trans (run_decoded ht (engaged_received hv) harr hne hroom')

/-- The block that has pushed the chunk of a record, and counts it. -/
theorem decodeDone_restored (v : State) (i : Instr) (r : Record) (chunk rest : List Byte) :
    let u := (v.restored i r chunk rest).decodeDone
    u.cfg = v.cfg ∧ u.host = v.host ∧ u.inReset = v.inReset ∧ u.inClosed = v.inClosed ∧
      u.outFifo = v.outFifo ++ chunk ∧ u.inFifo = rest ∧ u.chunkCount = v.chunkCount + 1 ∧
      u.curLen = BitVec.ofNat 32 chunk.length ∧ u.inCount = v.inCount + BitVec.ofNat 32 r.bytes.length ∧
      u.endFlag = v.endFlag := by
  simp only [State.decodeDone, State.restored, State.emitted, State.decoded, State.decodedFrom, State.received,
    State.metaRead, State.entered, State.countRead, and_self]

theorem engaged_restored {r : Record} (h : Engaged i v) : Engaged i (v.restored i r chunk rest) := by
  obtain ⟨-, hhost, hreset, -⟩ := decodeDone_restored v i r chunk rest
  exact ⟨⟨_, rfl⟩, hhost.trans h.host, hreset.trans h.inReset⟩

end

/-- Settles O51. The record is taken, its chunk is pushed, and the block completes. -/
theorem decChunkRestoresTheChunk : Obligations.DecChunkRestoresTheChunk := by
  intro s chunk r rest hr hrec hne hfits hcfg hs hhost hreset hphase hf hroom
  obtain ⟨P, hP, rfl⟩ := isRecord_iff.mp hr
  have hmax := ((params_wellFormed_iff s.cfg).mp hcfg).2.1
  have hengaged : Engaged .decChunk s := ⟨⟨_, hs⟩, hhost, hreset⟩
  have hbegin : Arrives .decChunk s (readCountStart s) :=
    arrives_atStart (.inr hs) (decide_eq_true hphase) (by rw [← show s.run = _ from hs]; rfl)
  have hrun := run_restored (.inl rfl) hengaged hengaged hbegin hP hrec hne hfits (by omega) hf hroom
  have hlast := (arrives_decodeDone (s := s.restored .decChunk (recordOf chunk P) chunk rest) rfl).done
  obtain ⟨-, -, -, -, hout, hin, hcount, hcur, hinCount, hend⟩ :=
    decodeDone_restored s .decChunk (recordOf chunk P) chunk rest
  exact ⟨_, run_succ hrun (engaged_restored hengaged) hlast, rfl, rfl, hout, hin, hcount, hcur, hinCount, hend⟩

end Sys2Proof.Machine
end

/-! ## Decompressing what ENC_ALL wrote (spec/00_scope.md R13; spec/44_decoder.md R260, R264) -/

section
namespace Sys2Proof.Machine

/-! ### A run that completes does so at greater depths (R13, R86) -/

section
variable {i : Instr} {s t : State} {inDepth outDepth : Nat}

/-- After a step of a command, CLEAR apart, the command has ended or it runs on. -/
theorem Engaged.exec_cases (h : Engaged i s) (hi : i ≠ .clear) (ht : exec i s = .next t) :
    t.run = none ∨ Engaged i t := by
  obtain ⟨p, hp⟩ := h.run
  obtain ⟨r, haccept, rfl | ⟨u, hu, hend⟩⟩ := exec_cases_anyStore (.inl hi) ht
  all_goals
    rw [accept_of_run hp] at haccept
    obtain rfl : r = { word := encode i, point := p } :=
      Option.some.inj ((congrArg State.run haccept).symm.trans hp)
  · exact .inr (h.step ht (p := p) rfl)
  · have hpoint (q : Point) (ht' : t.run = u.run.map fun r => { r with point := q }) : Engaged i t :=
      h.step ht (p := q) (by rw [AtPoint, ht', hu.run]; rfl)
    cases hend with
    | byte | eof | push => exact .inr (hpoint _ rfl)
    | done | error => exact .inl rfl

/-- At another depth that is not less, a step does the same, or the block holds for want of room. -/
theorem exec_withDepths_or_hold (h : Engaged i s) (hdepth : s.cfg.outDepth ≤ outDepth) :
    exec i s = .next s ∨ exec i (s.withDepths inDepth outDepth) = outcomeWithDepths inDepth outDepth (exec i s) := by
  rcases Nat.lt_or_ge s.outFifo.length s.cfg.outDepth with hroom | hfull
  · exact .inr (exec_withDepths i hroom (by omega))
  obtain ⟨p, hp⟩ := h.run
  have haccept : s.accept i = s := accept_of_run hp
  rw [exec_eq_engineStep, exec_eq_engineStep, engineStep, engineStep, accept_withDepths, haccept, compute_withDepths]
  cases hr : compute i (bodyOf i) (nextOf i) s with
  | push u site b rest =>
    obtain ⟨hout, hsame⟩ := compute_eq_push hr
    exact .inl (finishStep_push_hold (by rw [hout, hsame]; omega))
  | pop | done | error | fault => exact .inr (finishStep_withDepths s fun _ _ _ _ h => by cases h)

/-- A run of the engine alone gives the host no move. -/
theorem host_of_run {n : Nat} (h : s.host = []) (hrun : Host.Core.run Sys2Proof.core n s = .next t) : t.host = [] := by
  induction n generalizing s with
  | zero =>
    cases hrun
    exact h
  | succ n ih =>
    have hstep : Sys2Proof.core.step s = engineTurn s := by
      show step s = _
      rw [step, h]
    cases hu : engineTurn s with
    | next u =>
      simp only [Host.Core.run, hstep, hu] at hrun
      exact ih ((engineTurn_keeps_host hu).1.trans h) hrun
    | fault | refused =>
      simp only [Host.Core.run, hstep, hu] at hrun
      cases hrun

/-- A run of a command that ends ends the same way at a depth that is not less: at every step there was room, or the
block waited and never went on. -/
theorem run_withDepths (hi : i ≠ .clear) {n : Nat} (h : Engaged i s) (hdepth : s.cfg.outDepth ≤ outDepth)
    (hrun : Host.Core.run Sys2Proof.core n s = .next t) (hidle : t.run = none) :
    Host.Core.run Sys2Proof.core n (s.withDepths inDepth outDepth) = .next (t.withDepths inDepth outDepth) := by
  have hhost := host_of_run h.host hrun
  induction n generalizing s with
  | zero =>
    obtain ⟨p, hp⟩ := h.run
    cases hrun
    exact nomatch hidle.symm.trans hp
  | succ n ih =>
    have hengaged : Engaged i (s.withDepths inDepth outDepth) := ⟨h.run, h.host, h.inReset⟩
    cases hexec : exec i s with
    | fault | refused =>
      have hstep : Sys2Proof.core.step s = _ := (step_of_engaged h).trans hexec
      simp only [Host.Core.run, hstep] at hrun
      cases hrun
    | next u =>
      rw [Nat.add_comm] at hrun ⊢
      rw [run_add 1 n s (run_one_of_engaged h hexec)] at hrun
      rcases exec_withDepths_or_hold (inDepth := inDepth) h hdepth with hhold | hsame
      · obtain rfl : u = s := Host.Outcome.next.inj (hexec.symm.trans hhold)
        exact run_of_le (ih h hdepth hrun) hidle hhost (Nat.le_add_left n 1)
      rw [hexec] at hsame
      rw [run_add 1 n _ (run_one_of_engaged hengaged hsame)]
      obtain ⟨hcfg, -, -, -, -, -, huhost, -⟩ := commandsLeaveTheHostsRegisters i s u hexec
      rcases h.exec_cases hi hexec with hend | hon
      · obtain rfl : u = t :=
          Host.Outcome.next.inj ((run_of_idle hend (huhost.trans h.host) n).symm.trans hrun)
        exact run_of_idle (s := u.withDepths inDepth outDepth) hend hhost n
      · exact ih hon (by rw [hcfg]; exact hdepth) hrun

end

/-! ### What a completed ENC_ALL has written (R182, R184) -/

/-- Two runs of the engine alone that have come to an idle block have come to the same. -/
theorem run_unique {s t u : State} {m n : Nat} (h : s.host = []) (ht : Host.Core.run Sys2Proof.core m s = .next t)
    (htidle : t.run = none) (hu : Host.Core.run Sys2Proof.core n s = .next u) (huidle : u.run = none) : t = u :=
  Host.Outcome.next.inj ((run_of_le ht htidle (host_of_run h ht) (Nat.le_max_left m n)).symm.trans
    (run_of_le hu huidle (host_of_run h hu) (Nat.le_max_right m n)))

/-- Where ENC_ALL completes, every chunk of the input has a record, and the records are the output: a block with
room for any output it would have completed in the same way. -/
theorem encAll_records {s t : State} {n : Nat} (hs : AtPoint .encAll .start s) (hhost : s.host = [])
    (hreset : s.inReset = false) (hphase : s.phase = .idle) (hcfg : s.cfg.wellFormed = true)
    (hpos : 1 ≤ s.chunkSize.toNat) (hsize : s.chunkSize.toNat ≤ s.cfg.maxChunk) (hclosed : s.inClosed = true)
    (hout : s.outFifo = []) (hrun : Host.Core.run Sys2Proof.core n s = .next t) (hidle : t.run = none)
    (hend : t.phase = .idle) :
    ∃ records, (∀ c ∈ chunksOf s.chunkSize.toNat s.inFifo.length s.inFifo, HasRecord c) ∧
      List.Forall₂ IsRecord (chunksOf s.chunkSize.toNat s.inFifo.length s.inFifo) records ∧
      t.outFifo = records.flatten := by
  obtain ⟨hmaxPos, hmax, hin, hdepth⟩ := (params_wellFormed_iff s.cfg).mp hcfg
  have hle := Nat.le_max_left s.cfg.outDepth (1552 * (s.inFifo.length + 1))
  have hroom := Nat.le_max_right s.cfg.outDepth (1552 * (s.inFifo.length + 1))
  generalize max s.cfg.outDepth (1552 * (s.inFifo.length + 1)) = depth at hle hroom
  have hdeep := run_withDepths (inDepth := s.cfg.inDepth) (by decide) ⟨⟨_, hs⟩, hhost, hreset⟩ hle hrun hidle
  obtain ⟨hall, hfirst⟩ := encAllWritesEveryRecord (s.withDepths s.cfg.inDepth depth) s.inFifo hs hhost hreset hphase
    ((params_wellFormed_iff _).mpr ⟨hmaxPos, hmax, hin, hdepth.trans hle⟩) hpos hsize rfl hclosed hout hroom
  classical
  cases hfind : (chunksOf s.chunkSize.toNat s.inFifo.length s.inFifo).find? fun c => !decide (HasRecord c) with
  | none =>
    have hrec : ∀ c ∈ chunksOf s.chunkSize.toNat s.inFifo.length s.inFifo, HasRecord c := by
      simpa using List.find?_eq_none.mp hfind
    obtain ⟨m, u, records, hu, huidle, -, -, hrecords, huout⟩ := hall hrec
    obtain rfl := run_unique (s := s.withDepths s.cfg.inDepth depth) hhost hdeep hidle hu huidle
    exact ⟨records, hrec, hrecords, huout⟩
  | some c =>
    obtain ⟨hc, pre, post, hsplit, hpre⟩ := List.find?_eq_some_iff_append.mp hfind
    obtain ⟨m, u, records, hu, huidle, huphase, -⟩ := hfirst pre c post hsplit (by simpa using hpre) (by simpa using hc)
    obtain rfl := run_unique (s := s.withDepths s.cfg.inDepth depth) hhost hdeep hidle hu huidle
    exact nomatch hend.symm.trans huphase

/-- The chunks of the input, one after the other, are the input; none is empty or longer than the chunk size. -/
theorem chunksOf_flatten {cs turns : Nat} {x : List Byte} (hsize : 1 ≤ cs) (hturns : x.length ≤ turns) :
    (chunksOf cs turns x).flatten = x ∧ ∀ c ∈ chunksOf cs turns x, c ≠ [] ∧ c.length ≤ cs := by
  induction turns generalizing x with
  | zero =>
    obtain rfl := List.length_eq_zero_iff.mp (Nat.le_zero.mp hturns)
    exact ⟨rfl, nofun⟩
  | succ turns ih =>
    cases x with
    | nil => exact ⟨rfl, nofun⟩
    | cons b x =>
      rw [List.length_cons] at hturns
      obtain ⟨hflat, hchunks⟩ := ih (x := (b :: x).drop cs) (by rw [List.length_drop, List.length_cons]; omega)
      have hne : (b :: x).take cs ≠ [] := by simp; omega
      refine ⟨?_, List.forall_mem_cons.mpr ⟨⟨hne, List.length_take_le _ _⟩, hchunks⟩⟩
      show ((b :: x).take cs :: chunksOf cs turns ((b :: x).drop cs)).flatten = _
      rw [List.flatten_cons, hflat, List.take_append_drop]

/-! ### From record to record (R260) -/

/-- In the step from `s` DEC_ALL begins its next record, in the state `v`, with `y` left of the container, which is
closed. -/
structure BeginsRecord (y : List Byte) (s v : State) : Prop where
  engaged  : Engaged .decAll s
  begins   : Engaged .decAll v
  arrives  : Arrives .decAll s (readCountStart v)
  phase    : v.phase = .idle
  inFifo   : v.inFifo = y
  inClosed : v.inClosed = true

section
variable {s v : State} {chunk r rest : List Byte}

/-- A chunk's record is read, the chunk is appended to the output, and the next record begins. -/
theorem BeginsRecord.next (h : BeginsRecord (r ++ rest) s v) (hr : IsRecord chunk r) (hrec : HasRecord chunk)
    (hne : chunk ≠ []) (hfits : chunk.length ≤ v.cfg.maxChunk) (hsize : chunk.length < 2 ^ 27)
    (hroom : v.outFifo.length + chunk.length ≤ v.cfg.outDepth) :
    ∃ n s' v', Host.Core.run Sys2Proof.core n s = .next s' ∧ BeginsRecord rest s' v' ∧ v'.cfg = v.cfg ∧
      v'.outFifo = v.outFifo ++ chunk := by
  obtain ⟨P, hP, rfl⟩ := isRecord_iff.mp hr
  have hrun := run_restored (.inr rfl) h.engaged h.begins h.arrives hP hrec hne hfits hsize h.inFifo hroom
  obtain ⟨hcfg, -, -, hclosed, hout, hin, -⟩ := decodeDone_restored v .decAll (recordOf chunk P) chunk rest
  have hdone : Engaged .decAll (v.restored .decAll (recordOf chunk P) chunk rest) := engaged_restored h.begins
  exact ⟨_, _, (v.restored .decAll (recordOf chunk P) chunk rest).decodeDone, hrun, {
    engaged := hdone
    begins := ⟨hdone.run, hdone.host, hdone.inReset⟩
    arrives := arrives_decodeDone rfl
    phase := rfl
    inFifo := hin
    inClosed := hclosed.trans h.inClosed }, hcfg, hout⟩

/-- The records of chunks that fit are decoded one after the other. -/
theorem BeginsRecord.run_records {chunks records : List (List Byte)} (h : BeginsRecord records.flatten s v)
    (hrecords : List.Forall₂ IsRecord chunks records) (hrec : ∀ c ∈ chunks, HasRecord c)
    (hchunks : ∀ c ∈ chunks, c ≠ [] ∧ c.length ≤ v.cfg.maxChunk) (hmax : v.cfg.maxChunk < 2 ^ 27)
    (hroom : v.outFifo.length + chunks.flatten.length ≤ v.cfg.outDepth) :
    ∃ n s' v', Host.Core.run Sys2Proof.core n s = .next s' ∧ BeginsRecord [] s' v' ∧
      v'.outFifo = v.outFifo ++ chunks.flatten := by
  induction hrecords generalizing s v with
  | nil => exact ⟨0, s, v, rfl, h, (List.append_nil _).symm⟩
  | @cons c r chunks records hr hrecords ih =>
    obtain ⟨⟨hne, hfits⟩, hchunks⟩ := List.forall_mem_cons.mp hchunks
    obtain ⟨hc, hrec⟩ := List.forall_mem_cons.mp hrec
    rw [List.flatten_cons, List.length_append] at hroom
    obtain ⟨n, s', v', hrun, h', hcfg, hout⟩ :=
      BeginsRecord.next (rest := records.flatten) h hr hc hne hfits (by omega) (by omega)
    obtain ⟨m, s'', v'', hrun', h'', hout'⟩ := ih h' hrec (by rwa [hcfg]) (by rwa [hcfg])
      (by rw [hout, hcfg, List.length_append]; omega)
    exact ⟨n + m, s'', v'', (run_add n m s hrun).trans hrun', h'',
      by rw [hout', hout, List.append_assoc, List.flatten_cons]⟩

/-- At the end of the container DEC_ALL takes EOF and completes with END set. -/
theorem BeginsRecord.run_end (h : BeginsRecord [] s v) :
    ∃ n t, Host.Core.run Sys2Proof.core n s = .next t ∧ t.run = none ∧ t.phase = .idle ∧ t.endFlag = true ∧
      t.outFifo = v.outFifo := by
  obtain ⟨p, hp⟩ := h.begins.run
  have hpop : Arrives .decAll s (.pop { v with curLen := 0#32, bitLen := 0#32, byteLen := 0#32 } (.count [])) :=
    h.arrives
  have heof := run_one_of_engaged h.engaged (hpop.eof hp h.inFifo h.inClosed)
  have hlast := run_succ heof ⟨⟨_, rfl⟩, h.begins.host, h.begins.inReset⟩
    (decCompositesComplete.1 .decAll _ (.inr rfl) rfl h.phase)
  exact ⟨_, _, hlast, rfl, h.phase, rfl, rfl⟩

end

/-- Settles O52. What ENC_ALL has written are the records of the input's chunks, which DEC_ALL decodes one by one. -/
theorem compressThenDecompressGivesBack : Obligations.CompressThenDecompressGivesBack := by
  intro s t d x n hs hhost hreset hphase hcfg hpos hsize hin hclosed hout hrun hidle hend hd hdhost hdreset hdphase
    hdcfg hmax hdin hdclosed hroom
  subst hin
  obtain ⟨records, hrec, hrecords, htout⟩ :=
    encAll_records hs hhost hreset hphase hcfg hpos hsize hclosed hout hrun hidle hend
  obtain ⟨hflat, hchunks⟩ := chunksOf_flatten (x := s.inFifo) hpos le_rfl
  have hdmax := ((params_wellFormed_iff d.cfg).mp hdcfg).2.1
  have hengaged : Engaged .decAll d := ⟨⟨_, hd⟩, hdhost, hdreset⟩
  have hbegin : BeginsRecord records.flatten d d := {
    engaged := hengaged, begins := hengaged
    arrives := arrives_atStart (.inr hd) (decide_eq_true hdphase) (by rw [← show d.run = _ from hd]; rfl)
    phase := hdphase, inFifo := hdin.trans htout, inClosed := hdclosed }
  obtain ⟨m, d', v, hm, hlast, hv⟩ := hbegin.run_records hrecords hrec
    (fun c hc => ⟨(hchunks c hc).1, ((hchunks c hc).2.trans hsize).trans hmax⟩) (by omega) (by rwa [hflat])
  obtain ⟨k, u, hk, huidle, huphase, huend, huout⟩ := hlast.run_end
  exact ⟨m + k, u, (run_add m k d hm).trans hk, huidle, huphase, huend, by rw [huout, hv, hflat]⟩

end Sys2Proof.Machine
end

/-! ## PHASE = ERROR is left only by CLEAR or reset (spec/60_exceptions.md R312; spec/40_control.md R150) -/

section
namespace Sys2Proof.Machine

/-- PHASE and the error record are in `t` what they are in `s`. -/
structure KeepsRecord (s t : State) : Prop where
  phase   : t.phase = s.phase := by exact rfl
  errCode : t.errCode = s.errCode := by exact rfl
  errInfo : t.errInfo = s.errInfo := by exact rfl

/-- What CLEAR and reset leave: IDLE, with no error recorded (R156, R350). -/
structure ErrorLeft (t : State) : Prop where
  phase   : t.phase = .idle := by exact rfl
  errCode : t.errCode = 0#8 := by exact rfl
  errInfo : t.errInfo = 0#12 := by exact rfl

section
variable {s t u : State}

theorem KeepsRecord.trans (h : KeepsRecord s t) (k : KeepsRecord t u) : KeepsRecord s u :=
  ⟨k.phase.trans h.phase, k.errCode.trans h.errCode, k.errInfo.trans h.errInfo⟩

/-! ### The host's moves -/

theorem writeCsr_keeps_record (a : Addr) (v : Word) (s : State) : KeepsRecord s (writeCsr a v s) := by
  obtain ⟨_, _, _, _, _, _, _, he⟩ := writeCsr_frame a v s
  rw [he]
  exact {}

theorem readReply_keeps_record (a : Addr) (s : State) : KeepsRecord s (readReply a s) := by
  unfold readReply
  rcases readCsr_state a s with he | he <;> rw [he] <;> exact {}

/-- A host move but reset changes neither PHASE nor the error record; a reset move puts the block in IDLE with none
(R350). -/
theorem act_keeps_record (m : Move) (s : State) :
    KeepsRecord s (m.act s) ∨ ((m = .rstAssert ∨ m = .rstRelease) ∧ ErrorLeft (m.act s)) := by
  cases m with
  | csrRead a => exact .inl (readReply_keeps_record a s)
  | csrWrite a v => exact .inl (writeCsr_keeps_record a v s)
  | send b last =>
    simp only [Move.act]
    split <;> exact .inl {}
  | recv =>
    simp only [Move.act, recvByte]
    split <;> exact .inl {}
  | waitIdle => exact .inl (readReply_keeps_record 0x0008#16 s)
  | waitIrq | engine => exact .inl {}
  | ackSameStep v => exact .inl (writeCsr_keeps_record 0x0018#16 v s)
  | rstAssert => exact .inr ⟨.inl rfl, {}⟩
  | rstRelease => exact .inr ⟨.inr rfl, {}⟩

/-! ### The engine's turn -/

/-- Where the engine has its turn it finds the block as it is in `s`, but for the host's list and IRQ_STATUS. -/
theorem GivesTurn.frame (h : GivesTurn s u) :
    ∃ host irqStatus, u = { s with host := host, irqStatus := irqStatus } := by
  rcases h with ⟨-, rfl⟩ | ⟨rest, -, rfl⟩ | ⟨v, rest, -, rfl⟩ | ⟨m, rest, -, -, rfl⟩
  · exact ⟨_, _, rfl⟩
  · exact ⟨_, _, rfl⟩
  · exact ⟨_, _, writeCsr_irqStatus_frame v { s with host := rest }⟩
  · exact ⟨_, _, rfl⟩

/-- In PHASE = ERROR only NOP and CLEAR run (the invariant): NOP leaves PHASE and the record as they are (R154), and
CLEAR leaves IDLE (R156). -/
theorem engineTurn_of_error (h : Inv s) (hphase : s.phase = .error) (ht : engineTurn s = .next t) :
    KeepsRecord s t ∨ ((∃ r, s.run = some r ∧ r.word = encode .clear) ∧ ErrorLeft t) := by
  cases hrun : s.run with
  | none =>
    cases (engineTurn_idle hrun).symm.trans ht
    exact .inl {}
  | some r =>
    have hreset : s.inReset = false :=
      Bool.eq_false_iff.mpr fun hin => nomatch (h.controlled.reset hin).symm.trans hrun
    have hturn {i : Instr} (hword : r.word = encode i) : exec i s = .next t :=
      (engineTurn_ok hrun (hword ▸ decode_encode i) hreset).symm.trans ht
    obtain ⟨hword, hpoint⟩ := h.controlled.errorRun hphase r hrun
    have hstart {i : Instr} (hword : r.word = encode i) : AtStart i s :=
      .inr (by rw [hrun, ← hword, ← hpoint])
    rcases hword with hnop | hclear
    · cases (nopCompletes.1 s (hstart hnop)).symm.trans (hturn hnop)
      exact .inl {}
    · cases (clearCompletes.1 s (hstart hclear)).symm.trans (hturn hclear)
      exact .inr ⟨⟨r, rfl, hclear⟩, {}⟩

/-! ### A step in PHASE = ERROR -/

/-- A step in PHASE = ERROR keeps the phase and the record, or it is CLEAR's or a reset move and leaves IDLE (R312). -/
theorem step_of_error (h : Inv s) (hphase : s.phase = .error) (ht : step s = .next t) :
    KeepsRecord s t ∨ (ErrorLeft t ∧ ((∃ r, s.run = some r ∧ r.word = encode .clear) ∨
      ∃ rest, s.host = .rstAssert :: rest ∨ s.host = .rstRelease :: rest)) := by
  rcases givesTurn_or_move s with ⟨u, hu⟩ | ⟨m, rest, hhost, hready, hleaves⟩
  · rw [step_of_givesTurn hu] at ht
    obtain ⟨host, irqStatus, rfl⟩ := hu.frame
    have hinv : Inv { s with host := host, irqStatus := irqStatus } := h.hostSide
    rcases engineTurn_of_error hinv hphase ht with hkeeps | ⟨hclear, hleft⟩
    · exact .inl (.trans {} hkeeps)
    · exact .inr ⟨hleft, .inl hclear⟩
  · cases (step_of_ready hhost hready hleaves).symm.trans ht
    rcases act_keeps_record m { s with host := rest } with hkeeps | ⟨rfl | rfl, hleft⟩
    · exact .inl (.trans {} hkeeps)
    · exact .inr ⟨hleft, .inr ⟨rest, .inl hhost⟩⟩
    · exact .inr ⟨hleft, .inr ⟨rest, .inr hhost⟩⟩

/-- In PHASE = ERROR an idle block accepts NOP and CLEAR and drops every other word (R150, R312). -/
theorem writeCmd_busy_iff_of_error {w : Word} (hidle : s.busy = false) (hphase : s.phase = .error) :
    (writeCmd w s).busy = true ↔ w = encode .nop ∨ w = encode .clear := by
  constructor
  · intro hbusy
    by_contra hword
    obtain ⟨hnop, hclear⟩ := not_or.mp hword
    rw [writeCmd_of_error hidle hphase hnop hclear] at hbusy
    exact Bool.false_ne_true (hidle.symm.trans hbusy)
  · intro hword
    rw [writeCmd_of_accepted hidle fun _ => hword]
    rfl

end

/-- Settles O24, from what a step in PHASE = ERROR can do and which words an idle block accepts there. -/
theorem errorIsLeftOnlyByClearOrReset : Obligations.ErrorIsLeftOnlyByClearOrReset := by
  refine ⟨fun s t h hphase ht => ?_, fun s w hreset hphase hidle => ?_⟩
  · rcases step_of_error h hphase ht with hkeeps | ⟨hleft, hby⟩
    · exact .inl ⟨hkeeps.phase.trans hphase, hkeeps.errCode, hkeeps.errInfo⟩
    · exact .inr ⟨hleft.phase, hleft.errCode, hleft.errInfo, hby⟩
  · rw [writeCsr_cmd hreset]
    exact writeCmd_busy_iff_of_error hidle hphase

end Sys2Proof.Machine
end

/-! ## What reset leaves, and what is ignored while it is asserted (spec/70_reset_and_hazards.md R350) -/

section
namespace Sys2Proof.Machine

/-! ### What reset leaves -/

/-- A reset move leaves the reset block, with `rst_n` asserted by the one and released by the other. -/
theorem act_of_resetMove {m : Move} (h : m = .rstAssert ∨ m = .rstRelease) (s : State) :
    ∃ b, m.act s = { s.resetBlock with inReset := b } ∧ (b = true ↔ m = .rstAssert) := by
  rcases h with rfl | rfl
  · exact ⟨true, rfl, by decide⟩
  · exact ⟨false, rfl, by decide⟩

/-- STATUS of an idle block with no flag set and both FIFOs empty: IN_EMPTY and OUT_EMPTY alone (R35). -/
theorem statusWord_of_empty {s : State} (hrun : s.run = none) (hend : s.endFlag = false)
    (hclosed : s.inClosed = false) (hdrop : s.cmdDrop = false) (hphase : s.phase = .idle)
    (hin : s.inFifo = []) (hout : s.outFifo = []) : statusWord s.phase s = 0x00000030#32 := by
  simp [statusWord, State.busy, Phase.code, hrun, hend, hclosed, hdrop, hphase, hin, hout]

theorem irq_of_irqStatus_zero {s : State} (h : s.irqStatus = 0#2) : s.irq = false := by
  simp [State.irq, h]

/-- ID reads its constant in every state (R34, R53). -/
theorem readCsr_id (s : State) : readCsr 0x0000#16 s = (0x48554646#32, s) := readCsr_fixed csrAt_id nofun rfl

/-- MAX_CHUNK reads the instance's parameter in every state (R46, R53). -/
theorem readCsr_maxChunk (s : State) : readCsr 0x0040#16 s = (BitVec.ofNat 32 s.cfg.maxChunk, s) :=
  readCsr_fixed csrAt_maxChunk nofun rfl

/-! ### What is ignored while reset is asserted -/

theorem act_send_inReset {s : State} (h : s.inReset = true) (b : Byte) (last : Bool) :
    (Move.send b last).act s = s := by
  simp [Move.act, h]

theorem ready_recv_inReset {s : State} (h : s.inReset = true) : Move.recv.ready s = false := by
  simp [Move.ready, recvReady, h]

/-- Settles O56. A reset move leaves the reset block, whose fields are the values of R350's table and give STATUS
and the interrupt line; an asserted reset is the first thing the ports and the engine test. -/
theorem resetLeavesTheResetState : Obligations.ResetLeavesTheResetState := by
  refine ⟨fun s m hm => ?_, fun s a v b last h =>
    ⟨writeCsr_inReset h, act_send_inReset h b last, ready_recv_inReset h, engineTurn_inReset h⟩⟩
  obtain ⟨b, hact, hb⟩ := act_of_resetMove hm s
  rw [hact]
  have hstatus : statusWord .idle { s.resetBlock with inReset := b } = 0x00000030#32 :=
    statusWord_of_empty (s := { s.resetBlock with inReset := b }) rfl rfl rfl rfl rfl rfl rfl
  exact ⟨rfl, rfl, rfl, rfl, rfl, hstatus, rfl, rfl, rfl, rfl, rfl, irq_of_irqStatus_zero rfl, rfl, rfl, rfl, rfl,
    rfl, rfl, rfl, rfl, rfl, rfl, rfl, rfl, rfl, hb, readCsr_id _, readCsr_maxChunk _⟩

end Sys2Proof.Machine
end
